-- ==== Sys2Proof/Word.lean ====
section
/-! DEFINITION. The word types of SPIM-PC: the byte of the bus and the 20-bit host command word. -/

namespace Sys2Proof

/-- A byte of the bus, of a register or of the payload buffer (00_scope.md R11: "A byte is 8 bits"). -/
abbrev Byte := BitVec 8

/-- The host command word, one fixed format of 20 bits (30_encoding.md R80, `CMD20`). -/
abbrev CmdWord := BitVec 20

end Sys2Proof
end

