-- ==== Sys2Proof/Config.lean ====
section
/-! DEFINITION. What is fixed for the machine: the parameters the source fixes (00_scope.md R7), the parameters it
leaves open (R8) as constants without a value, and the free values of the environment (93_implementation_defined.md). -/

namespace Sys2Proof

/-- One event of the bus trace `T` (20_memory.md R61). -/
inductive BusEvent where
  /-- chip-select driven low: the first act of a frame (R54) -/
  | csnLow
  /-- one byte exchange: the master sent `m`, the slave returned `s` (R51) -/
  | x (m s : Byte)
  /-- chip-select driven high: the last act of a frame, or a reset that cuts one (R54, R232) -/
  | csnHigh
deriving DecidableEq, Repr

/-- The result ports whose value is open while `BUSY` = 1 (10_state.md R37, R38; U6 of 93_implementation_defined.md). -/
inductive BusyPort where
  | ok
  | rdata
  | status
  | rxDr
  | txDs
  | maxRt
  | pbRdata (addr : BitVec 5)
deriving DecidableEq, Repr

namespace Config

/-! ### Parameters the source fixes (00_scope.md R7) -/

/-- `PAYLOAD_BYTES`: the size of a RawPayload. -/
abbrev PAYLOAD_BYTES : Nat := 32

/-- `CODED_BYTES`: the bytes of a payload that carry meaning. -/
abbrev CODED_BYTES : Nat := 3

/-- `REG_ADDR_MASK`: the mask applied to a register address operand. -/
abbrev REG_ADDR_MASK : Byte := 0x1F

/-- `CMD_R_REGISTER`: the base of the read-register command byte. -/
abbrev CMD_R_REGISTER : Byte := 0x00

/-- `CMD_W_REGISTER`: the base of the write-register command byte. -/
abbrev CMD_W_REGISTER : Byte := 0x20

/-- `ST_RX_DR`: the status bit "data-ready". -/
abbrev ST_RX_DR : Byte := 0x40

/-- `ST_TX_DS`: the status bit "transmit-done". -/
abbrev ST_TX_DS : Byte := 0x20

/-- `ST_MAX_RT`: the status bit "max-retries". -/
abbrev ST_MAX_RT : Byte := 0x10

/-- `WRITE_FAIL_MASK`: the bit the write check tests, the same bit as `ST_TX_DS` (90_conflicts.md C1). -/
abbrev WRITE_FAIL_MASK : Byte := 0x20

/-! ### Parameters the source leaves open (00_scope.md R8, 92_eei_decisions.md D25, D26): uninterpreted, so that
every proof holds for every value, even where two of them coincide (log 8). -/

/-- The command byte of STAT. -/
opaque CMD_NOP : Byte

/-- The command byte of RPAY. -/
opaque CMD_R_RX_PAYLOAD : Byte

/-- The command byte of WPAY. -/
opaque CMD_W_TX_PAYLOAD : Byte

/-- The command byte of FLTX. -/
opaque CMD_FLUSH_TX : Byte

/-- The command byte of FLRX. -/
opaque CMD_FLUSH_RX : Byte

/-- The byte sent while a data byte is being read (30_encoding.md R96). -/
opaque DUMMY_BYTE : Byte

/-! ### Free values of the environment -/

/-- The byte the slave returns where no script gives one: a free function of the trace so far and of the byte sent
(20_memory.md R62; U1). Within one run the trace grows with every exchange, so each exchange is a fresh draw (log 3). -/
opaque slaveByte : List BusEvent → Byte → Byte

/-- What a byte-wide result port shows while `BUSY` = 1, one free value per port and clock cycle (U6; log 9). -/
opaque busyByte : BusyPort → Nat → Byte

/-- What a one-bit result port shows while `BUSY` = 1, one free value per port and clock cycle (U6; log 9). -/
opaque busyBit : BusyPort → Nat → Bool

end Config

end Sys2Proof
end

