-- ==== Sys2Proof/Machine/State.lean ====
section
/-! DEFINITION. The state of SPIM-PC: the block's own registers, pins and sequencer latches (10_state.md), and beside
them what the model keeps of the world outside (pending host cycles, the slave's script, the bus trace). Reset values
are those of 10_state.md R43. -/

namespace Sys2Proof.Machine

/-- The TimePacket register (10_state.md R22). -/
structure TimePacket where
  /-- `TP.seconds`, 16 bits unsigned -/
  seconds : BitVec 16
  /-- `TP.sequence`, 8 bits unsigned -/
  sequence : BitVec 8
deriving DecidableEq, Repr

/-- The payload buffer `PB`: 32 bytes (10_state.md R21). -/
abbrev Payload := Vector Byte 32

/-- The sequencer's phase `PH` (10_state.md R28). -/
inductive Phase where
  /-- about to drive chip-select low -/
  | select
  /-- the command exchange -/
  | command
  /-- the data exchanges -/
  | data
  /-- about to drive chip-select high -/
  | deselect
deriving DecidableEq, Repr

/-- How much of a bus operation one step performs (20_memory.md R70 gives the first two levels, R53 the third). The
model's own: it chooses the level at which a run is looked at, and no register shows it (log 1). -/
inductive Grain where
  /-- a step is one accepted host action performed whole -/
  | operation
  /-- a step is one bus event: chip-select low, one exchange, chip-select high -/
  | byte
  /-- a step is one chip-select edge, one loading of the shift register or one edge of `SCK` -/
  | bit
deriving DecidableEq, Repr

/-- What the host presents on the block's inputs in one clock cycle (10_state.md R31, R36, R38, R39, R42), and whether
the bus moves in that cycle. -/
structure HostCycle where
  /-- `rst`, synchronous, active high -/
  rst : Bool := false
  /-- `cmd_valid` -/
  cmdValid : Bool := false
  /-- `cmd`, the command word -/
  cmd : CmdWord := 0
  /-- `pb_we` -/
  pbWe : Bool := false
  /-- `pb_addr` -/
  pbAddr : BitVec 5 := 0
  /-- `pb_wdata` -/
  pbWdata : Byte := 0
  /-- `tp_we` -/
  tpWe : Bool := false
  /-- `tp_wseconds` -/
  tpWseconds : BitVec 16 := 0
  /-- `tp_wsequence` -/
  tpWsequence : BitVec 8 := 0
  /-- No port: whether the frame in flight moves on by one step of the state's grain in this clock cycle. How `SCK` is
  derived from `clk` is not specified (70_reset_and_hazards.md R262), so this is an input of the model (log 5). -/
  advance : Bool := true
deriving DecidableEq, Repr

/-- The block itself: every register, pin and latch the spec gives it, and nothing else (10_state.md R21 to R30, R41,
R43; R32 says what is not state of the block). -/
structure Block where
  /-- `PB` (R21) -/
  pb : Payload
  /-- `TP` (R22) -/
  tp : TimePacket
  /-- `RDATA` (R23) -/
  rdata : Byte
  /-- `STATUS`, the captured status byte (R24) -/
  status : Byte
  /-- `OK` (R25) -/
  ok : Bool
  /-- `BUSY` (R27) -/
  busy : Bool
  /-- `FAULT`: 0 none, 1 IllegalOp, 2 BadLength, 3 BadAccess (R30) -/
  fault : BitVec 2
  /-- `done`, the completion strobe (R41) -/
  done : Bool
  /-- `CSN`, chip-select, active low: `true` is high (R29) -/
  csn : Bool
  /-- `SCK`, the bus clock: `true` is high (R29, 20_memory.md R53) -/
  sck : Bool
  /-- `MOSI`, master-out data (R29) -/
  mosi : Bool
  /-- `CUR`, the accepted command word (R28) -/
  cur : CmdWord
  /-- `IDX`, the data bytes exchanged so far, 0 to 32 (R28) -/
  idx : BitVec 6
  /-- `PH` (R28) -/
  ph : Phase
  /-- `S0`, the byte received in the command phase (R28) -/
  s0 : Byte
  /-- `DIN`, the bytes received in data exchanges so far, in order (R28) -/
  din : List Byte
  /-- the 8-bit shift register (R28) -/
  shift : Byte
  /-- the 3-bit bit counter: the number of the bit on the wire, 7 down to 0 (R28, 20_memory.md R53) -/
  bitCount : BitVec 3
  /-- whether the shift register holds an exchange in progress; the model's own bit beside the bit counter, which
  cannot tell "not begun" from "at bit 7" (log 12) -/
  shifting : Bool
deriving DecidableEq, Repr

/-- Every register after reset (10_state.md R43). The sequencer latches are "dead" there: "no value; never read while
`BUSY` = 0"; the model names 0, `SELECT` and the empty list for them (log 6). -/
def Block.reset : Block where
  pb := Vector.replicate 32 0
  tp := { seconds := 0, sequence := 0 }
  rdata := 0
  status := 0
  ok := false
  busy := false
  fault := 0
  done := false
  csn := true
  sck := false
  mosi := false
  cur := 0
  idx := 0
  ph := .select
  s0 := 0
  din := []
  shift := 0
  bitCount := 0
  shifting := false

/-- The machine: the block, and the model's own record of what stands around it. `toBlock` is the block alone. -/
structure State extends Block where
  /-- The host's inputs of the clock cycles to come, next first; when it is empty the host presents nothing (log 2). -/
  host : List HostCycle
  /-- The bytes the slave will return, one per exchange, next first: the deterministic slave of 20_memory.md R62. Where
  it is empty the byte is the free value `Config.slaveByte` (log 3). -/
  slave : List Byte
  /-- The bus trace `T`, oldest event first (20_memory.md R61): the observation's record, no state of the block (log 4). -/
  trace : List BusEvent
  /-- How many clock cycles the model has run; only the free values of the ports while busy read it (log 9). -/
  clock : Nat
  /-- The level at which steps are taken (log 1). -/
  grain : Grain
deriving DecidableEq, Repr

/-- The machine right after reset: the block of R43, an empty trace, no pending input, no script (log 14). -/
def State.reset : State where
  toBlock := Block.reset
  host := []
  slave := []
  trace := []
  clock := 0
  grain := .operation

/-- Why a step can stop. The three faults of the block are no stop: they are values of `FAULT`, and the machine goes on
to a next state (60_exceptions.md R203, R205; log 10). -/
inductive Fault where
  /-- Raised by the sequencer's step in a state with `BUSY` = 1 whose latch `CUR` holds no bus operation. The spec has no
  such state (10_state.md R28: `CUR` is the accepted command word) and gives no effect there. Safe: the model stops
  where it has nothing to follow, and no step from a state of the invariant reaches it. -/
  | sequencerLost
deriving DecidableEq, Repr

/-- Why a step can be refused. -/
inductive Refusal where
  /-- Raised by an arm of `exec` whose operation has no meaning yet; no arm is left so. Safe: nothing is claimed of it. -/
  | notModelled (mnemonic : String)
deriving DecidableEq, Repr

/-- The outcome of a step of this machine. -/
abbrev Outcome := Host.Outcome State Fault Refusal

end Sys2Proof.Machine
end

