-- ==== Sys2Proof/Machine/Ops.lean ====
section
/-! DEFINITION. The named operations over the state: fault entry (60_exceptions.md R203), reset (70_reset_and_hazards.md
R230, R232), the host's register writes (10_state.md R38, R39), the bus primitives `Xfer` and `Frame` (20_memory.md R51,
R55), and the acceptance of a command with the whole performance of a bus operation (10_state.md R36, R70). -/

namespace Sys2Proof.Machine

/-! ### Faults -/

/-- The three faults of the block (60_exceptions.md R200). -/
inductive BlockFault where
  | illegalOp
  | badLength
  | badAccess
deriving DecidableEq, Repr

/-- The value `FAULT` takes (R200: "The code is the value `FAULT` takes"). -/
def BlockFault.code : BlockFault → BitVec 2
  | .illegalOp => 1
  | .badLength => 2
  | .badAccess => 3

/-- Fault entry, `raise Fault(code)`: `FAULT` is written and nothing else. There is no saved state, no handler and no
return; only reset clears it (60_exceptions.md R203, R205). -/
def State.raise (s : State) (f : BlockFault) : State := { s with fault := f.code }

/-- A host action the block does not take because of when it comes: dropped while `FAULT` is non-zero, else BadAccess
(60_exceptions.md R204, R205, R206). -/
def State.refuseAccess (s : State) : State := if s.fault ≠ 0 then s else s.raise .badAccess

/-- A host action is taken only when `FAULT` = 0 and `BUSY` = 0: with `FAULT` non-zero it is dropped, with `BUSY` = 1
it raises BadAccess (10_state.md R36 items 1, 2 and 5). -/
def State.accept (s : State) (act : State → State) : Outcome :=
  .next (if s.fault ≠ 0 then s else if s.busy then s.raise .badAccess else act s)

/-! ### Reset -/

/-- The effect of `rst` = 1: every register takes its reset value, and a frame in flight is cut, which the trace shows
as a `CsnHigh` (70_reset_and_hazards.md R230, R232). What stands around the block is not reset (R233, log 15). -/
def State.resetBlock (s : State) : State :=
  { s with
    toBlock := Block.reset
    trace := if s.busy then s.trace ++ [.csnHigh] else s.trace }

/-! ### The host's writes -/

/-- `PB[i] <- v`. -/
def Payload.write (pb : Payload) (i : BitVec 5) (v : Byte) : Payload := pb.set i.toNat v i.isLt

/-- `PB[i]`. -/
def Payload.read (pb : Payload) (i : BitVec 5) : Byte := pb[i.toNat]'i.isLt

/-- `PB[0..n-1] <- in[0..n-1]`, the rest unchanged (41_payload_fifo.md R130). -/
def Payload.load (pb : Payload) (bytes : List Byte) : Payload := Vector.ofFn fun i => bytes.getD i.val pb[i]

/-- `PB[0], ..., PB[n-1]` in ascending order (20_memory.md R57 item 3). -/
def Payload.firstBytes (pb : Payload) (n : Nat) : List Byte := pb.toList.take n

/-- The buffer port's write (10_state.md R38). -/
def State.writePb (s : State) (i : BitVec 5) (v : Byte) : State := { s with pb := s.pb.write i v }

/-- The TimePacket port's write: both fields together (10_state.md R39). -/
def State.writeTp (s : State) (seconds : BitVec 16) (sequence : BitVec 8) : State :=
  { s with tp := { seconds := seconds, sequence := sequence } }

/-! ### The bus -/

/-- The byte the slave returns for `m`: the script's next byte, or a free value (20_memory.md R62, log 3). -/
def State.answer (s : State) (m : Byte) : Byte :=
  match s.slave with
  | b :: _ => b
  | [] => Config.slaveByte s.trace m

/-- `CSN <- 0`, which the trace records (20_memory.md R54). -/
def State.csnLow (s : State) : State := { s with csn := false, trace := s.trace ++ [.csnLow] }

/-- `CSN <- 1`, which the trace records (20_memory.md R54). -/
def State.csnHigh (s : State) : State := { s with csn := true, trace := s.trace ++ [.csnHigh] }

/-- The mark an exchange leaves: the event `X(m, b)`, the slave's answer used up, `SCK` low, and bit 0 of `m`, the last
bit sent, on `MOSI` (20_memory.md R51, R53). -/
def State.exchanged (s : State) (m b : Byte) : State :=
  { s with
    slave := s.slave.tail
    trace := s.trace ++ [.x m b]
    sck := false
    mosi := m.getLsbD 0 }

/-- `Xfer(m) -> s`, one byte exchange (20_memory.md R51): the byte received and the state after it. -/
def State.xfer (s : State) (m : Byte) : Byte × State := (s.answer m, s.exchanged m (s.answer m))

/-- The data exchanges of a frame, in order (20_memory.md R55, R67). -/
def State.xferAll (s : State) : List Byte → List Byte × State
  | [] => ([], s)
  | m :: rest =>
    let r := (s.xfer m).2.xferAll rest
    ((s.xfer m).1 :: r.1, r.2)

/-- What a frame gives: the command-phase byte, the bytes received in the data exchanges, the state after it. -/
structure FrameResult where
  /-- the status byte returned in the command phase -/
  s0 : Byte
  /-- the bytes received in the data exchanges -/
  din : List Byte
  /-- the state after `CSN <- 1` -/
  after : State

/-- `Frame(c, out) -> (s0, in)`, the bracket every bus operation uses (20_memory.md R55). -/
def State.frame (s : State) (c : Byte) (out : List Byte) : FrameResult :=
  let command := s.csnLow.xfer c
  let rest := command.2.xferAll out
  { s0 := command.1, din := rest.1, after := rest.2.csnHigh }

/-! ### Operations -/

/-- A bus operation: the command byte, the bytes sent after it, and what the operation writes once its frame is over,
from the command-phase byte `s0` and the received bytes `in` (20_memory.md R59, R70). -/
structure BusOp where
  /-- the command byte -/
  cmd : Byte
  /-- the data bytes sent -/
  out : List Byte
  /-- the registers written from `s0` and `in` -/
  commit : Byte → List Byte → State → State

/-- The completion strobe (10_state.md R41, log 11). -/
def State.complete (s : State) : State := { s with done := true }

/-- A bus operation performed whole: its frame, its writes, its completion (20_memory.md R70, the operation level). -/
def State.performBus (s : State) (op : BusOp) : State :=
  let f := s.frame op.cmd op.out
  (op.commit f.s0 f.din f.after).complete

/-- A bus operation with a length operand: BadLength above 32 (60_exceptions.md R202), else performed. -/
def State.performSized (s : State) (lengthLegal : Bool) (op : BusOp) : State :=
  if lengthLegal then s.performBus op else s.raise .badLength

end Sys2Proof.Machine
end

