-- ==== Sys2Proof/Machine/Codec.lean ====
section
/-! DEFINITION. The packet codec: the two pure functions (42_packet_codec.md R150, R151) and the operations ENC and DEC
that apply them to `TP` and `PB` (R153, R154). -/

namespace Sys2Proof.Machine

/-- `encode(p)`: seconds big-endian in bytes 0 and 1, sequence in byte 2, bytes 3 to 31 zero (R150). -/
def encodePacket (p : TimePacket) : Payload :=
  Vector.ofFn fun i =>
    match i.val with
    | 0 => p.seconds.extractLsb' 8 8
    | 1 => p.seconds.extractLsb' 0 8
    | 2 => p.sequence
    | _ => 0

/-- `decode(b)`: `seconds = {b[0], b[1]}`, `sequence = b[2]`; bytes beyond index 2 are ignored (R151). -/
def decodePacket (b : Payload) : TimePacket where
  seconds := b[0] ++ b[1]
  sequence := b[2]

/-- ENC: `PB[0..31] <- encode(TP); OK <- 1`, no frame (R153). -/
def execEnc (s : State) : Outcome :=
  s.accept fun s => { s with pb := encodePacket s.tp, ok := true }.complete

/-- DEC: `TP <- decode(PB); OK <- 1`, no frame (R154). -/
def execDec (s : State) : Outcome :=
  s.accept fun s => { s with tp := decodePacket s.pb, ok := true }.complete

end Sys2Proof.Machine
end

