-- ==== Sys2Proof/Syntax.lean ====
section
/-! DEFINITION. The ten operations of SPIM-PC (30_encoding.md R82), one constructor per row of opcode_table.json. -/

namespace Sys2Proof

/-- An operation with the operands it uses. A field of the command word that an operation does not use is no operand
of it (R83). `a` is the 8-bit `A` field, unmasked (R92); `v` and `n` are the 8-bit `D` field (R94). -/
inductive Instr where
  /-- STAT: read the status byte (40_register_access.md R110) -/
  | stat
  /-- RREG a: read one register byte (R112) -/
  | rreg (a : Byte)
  /-- WREG a, v: write one register byte (R114) -/
  | wreg (a v : Byte)
  /-- RPAY n: read a payload into `PB` (41_payload_fifo.md R130) -/
  | rpay (n : Byte)
  /-- WPAY n: write a payload from `PB` (R132) -/
  | wpay (n : Byte)
  /-- FLRX: flush the slave's receive store (R134) -/
  | flrx
  /-- FLTX: flush the slave's transmit store (R135) -/
  | fltx
  /-- ENC: encode `TP` into `PB` (42_packet_codec.md R153) -/
  | enc
  /-- DEC: decode `PB` into `TP` (R154) -/
  | dec
  /-- WREGM a, n: write several register bytes from `PB` (40_register_access.md R120) -/
  | wregm (a n : Byte)
deriving DecidableEq, Repr

end Sys2Proof
end

