-- ==== Sys2Proof/WellFormed.lean ====
section
/-! DEFINITION. Which terms of `Instr` stand for a command word that is not refused for its length. -/

namespace Sys2Proof

/-- The lengths 0 to 32 are legal; 33 is the first illegal one (60_exceptions.md R202, 30_encoding.md R89). -/
def lengthOk (n : Byte) : Bool := decide (n.toNat ≤ Config.PAYLOAD_BYTES)

/-- The one check on operands: the length of RPAY, WPAY and WREGM (30_encoding.md R83: "The only field values that are
refused are `OP` from 0xA to 0xF and a length above 32"). Register addresses and values are unrestricted. -/
def Instr.wellFormed : Instr → Bool
  | .stat => true
  | .rreg _ => true
  | .wreg _ _ => true
  | .rpay n => lengthOk n
  | .wpay n => lengthOk n
  | .flrx => true
  | .fltx => true
  | .enc => true
  | .dec => true
  | .wregm _ n => lengthOk n

end Sys2Proof
end

