-- ==== Sys2Proof/Machine/Operands.lean ====
section
/-! DEFINITION. The operand forms: the command byte made from a register address (30_encoding.md R86), the data bytes of
a frame (R84), the length operand (R94). -/

namespace Sys2Proof.Machine

/-- `rcmd(a) = 0x00 | (a & 0x1F)` (30_encoding.md R86). -/
def rcmd (a : Byte) : Byte := Config.CMD_R_REGISTER ||| (a &&& Config.REG_ADDR_MASK)

/-- `wcmd(a) = 0x20 | (a & 0x1F)` (30_encoding.md R86). -/
def wcmd (a : Byte) : Byte := Config.CMD_W_REGISTER ||| (a &&& Config.REG_ADDR_MASK)

/-- `n` times `DUMMY_BYTE`, what the master sends while it reads (30_encoding.md R96). -/
def dummyBytes (n : Nat) : List Byte := List.replicate n Config.DUMMY_BYTE

/-- The length operand: `D` read as an unsigned number (30_encoding.md R94). -/
def lengthOf (d : Byte) : Nat := d.toNat

end Sys2Proof.Machine
end

