-- ==== Sys2Proof/Machine/PayloadFifo.lean ====
section
/-! DEFINITION. The payload and flush operations RPAY, WPAY, FLRX, FLTX (41_payload_fifo.md). None writes `STATUS` or
`RDATA`: the command-phase byte is discarded (R136). -/

namespace Sys2Proof.Machine

/-- RPAY n: `(s0, in) <- Frame(CMD_R_RX_PAYLOAD, [DUMMY_BYTE n times]); PB[0..n-1] <- in; OK <- 1` (R130). -/
def rpayOp (n : Byte) : BusOp where
  cmd := Config.CMD_R_RX_PAYLOAD
  out := dummyBytes (lengthOf n)
  commit _ din s := { s with pb := s.pb.load din, ok := true }

/-- RPAY n (R130): BadLength when n > 32. -/
def execRpay (n : Byte) (s : State) : Outcome :=
  s.accept fun s => s.performSized (lengthOk n) (rpayOp n)

/-- WPAY n: `(s0, in) <- Frame(CMD_W_TX_PAYLOAD, [PB[0], ..., PB[n-1]]); OK <- 1` (R132). -/
def wpayOp (n : Byte) (pb : Payload) : BusOp where
  cmd := Config.CMD_W_TX_PAYLOAD
  out := pb.firstBytes (lengthOf n)
  commit _ _ s := { s with ok := true }

/-- WPAY n (R132): BadLength when n > 32. -/
def execWpay (n : Byte) (s : State) : Outcome :=
  s.accept fun s => s.performSized (lengthOk n) (wpayOp n s.pb)

/-- FLRX: `(s0, []) <- Frame(CMD_FLUSH_RX, []); OK <- 1` (R134). -/
def flrxOp : BusOp where
  cmd := Config.CMD_FLUSH_RX
  out := []
  commit _ _ s := { s with ok := true }

/-- FLRX (R134). -/
def execFlrx (s : State) : Outcome := s.accept fun s => s.performBus flrxOp

/-- FLTX: `(s0, []) <- Frame(CMD_FLUSH_TX, []); OK <- 1` (R135). -/
def fltxOp : BusOp where
  cmd := Config.CMD_FLUSH_TX
  out := []
  commit _ _ s := { s with ok := true }

/-- FLTX (R135). -/
def execFltx (s : State) : Outcome := s.accept fun s => s.performBus fltxOp

end Sys2Proof.Machine
end

