-- ==== Sys2Proof/Machine/Flags.lean ====
section
/-! DEFINITION. Every flag computation the spec gives: the three status predicates (40_register_access.md R118) and the
write check (R114, R116). The block has no arithmetic condition codes (10_state.md R26). -/

namespace Sys2Proof.Machine

/-- `isDataAvailable(s) = ((s & 0x40) != 0)`, the wire `rx_dr` (R118). -/
def isDataAvailable (s : Byte) : Bool := (s &&& Config.ST_RX_DR) != 0

/-- `isTxDone(s) = ((s & 0x20) != 0)`, the wire `tx_ds` (R118). -/
def isTxDone (s : Byte) : Bool := (s &&& Config.ST_TX_DS) != 0

/-- `isMaxRetries(s) = ((s & 0x10) != 0)`, the wire `max_rt` (R118). -/
def isMaxRetries (s : Byte) : Bool := (s &&& Config.ST_MAX_RT) != 0

/-- The write check, `(s0 & 0x20) == 0`, kept as written although the bit is the transmit-done bit (R114, R116,
90_conflicts.md C1). -/
def writeOk (s0 : Byte) : Bool := (s0 &&& Config.WRITE_FAIL_MASK) == 0

end Sys2Proof.Machine
end

