-- ==== Sys2Proof/Machine/Register.lean ====
section
/-! DEFINITION. The register access operations STAT, RREG, WREG, WREGM (40_register_access.md). Each is one bus
operation and the command that performs it. -/

namespace Sys2Proof.Machine

/-- STAT: `(s0, []) <- Frame(CMD_NOP, []); STATUS <- s0; OK <- 1` (R110). -/
def statOp : BusOp where
  cmd := Config.CMD_NOP
  out := []
  commit s0 _ s := { s with status := s0, ok := true }

/-- STAT (R110). -/
def execStat (s : State) : Outcome := s.accept fun s => s.performBus statOp

/-- RREG a: `(s0, [d]) <- Frame(rcmd(a), [DUMMY_BYTE]); RDATA <- d; OK <- 1`, `s0` discarded (R112). -/
def rregOp (a : Byte) : BusOp where
  cmd := rcmd a
  out := dummyBytes 1
  commit _ din s := { s with rdata := din.headD 0, ok := true }

/-- RREG a (R112). -/
def execRreg (a : Byte) (s : State) : Outcome := s.accept fun s => s.performBus (rregOp a)

/-- WREG a, v: `(s0, [d]) <- Frame(wcmd(a), [v]); STATUS <- s0; OK <- (s0 & 0x20) == 0`, `d` discarded (R114). -/
def wregOp (a v : Byte) : BusOp where
  cmd := wcmd a
  out := [v]
  commit s0 _ s := { s with status := s0, ok := writeOk s0 }

/-- WREG a, v (R114). -/
def execWreg (a v : Byte) (s : State) : Outcome := s.accept fun s => s.performBus (wregOp a v)

/-- WREGM a, n: `(s0, in) <- Frame(wcmd(a), [PB[0], ..., PB[n-1]]); STATUS <- s0; OK <- (s0 & 0x20) == 0` (R120). -/
def wregmOp (a n : Byte) (pb : Payload) : BusOp where
  cmd := wcmd a
  out := pb.firstBytes (lengthOf n)
  commit s0 _ s := { s with status := s0, ok := writeOk s0 }

/-- WREGM a, n (R120): BadLength when n > 32. -/
def execWregm (a n : Byte) (s : State) : Outcome :=
  s.accept fun s => s.performSized (lengthOk n) (wregmOp a n s.pb)

end Sys2Proof.Machine
end

