-- ==== Sys2Proof/Machine/Dispatch.lean ====
section
/-! DEFINITION. One arm per operation: its meaning (30_encoding.md R82). -/

namespace Sys2Proof.Machine

def exec (i : Instr) (s : State) : Host.Outcome State Fault Refusal :=
  match i with
  | .stat => Sys2Proof.Machine.execStat s
  | .rreg a => Sys2Proof.Machine.execRreg a s
  | .wreg a v => Sys2Proof.Machine.execWreg a v s
  | .rpay n => Sys2Proof.Machine.execRpay n s
  | .wpay n => Sys2Proof.Machine.execWpay n s
  | .flrx => Sys2Proof.Machine.execFlrx s
  | .fltx => Sys2Proof.Machine.execFltx s
  | .enc => Sys2Proof.Machine.execEnc s
  | .dec => Sys2Proof.Machine.execDec s
  | .wregm a n => Sys2Proof.Machine.execWregm a n s

end Sys2Proof.Machine
end

