-- ==== Sys2Proof/Machine/Ports.lean ====
section
/-! DEFINITION. The host's side: the actions it can present in a clock cycle (10_state.md R36 to R40, 30_encoding.md
R93), and the output ports it reads (10_state.md R37 to R39, R41, R42). -/

namespace Sys2Proof.Machine

/-! ### Input cycles (30_encoding.md R93) -/

/-- A cycle in which the host presents nothing. -/
def HostCycle.idle : HostCycle := {}

/-- A cycle that presents a command word alone. -/
def HostCycle.command (w : CmdWord) : HostCycle := { cmdValid := true, cmd := w }

/-- `SETPB i, v`: a buffer port write alone. -/
def HostCycle.setPb (i : BitVec 5) (v : Byte) : HostCycle := { pbWe := true, pbAddr := i, pbWdata := v }

/-- `SETTP s, q`: a TimePacket port write alone. -/
def HostCycle.setTp (seconds : BitVec 16) (sequence : BitVec 8) : HostCycle :=
  { tpWe := true, tpWseconds := seconds, tpWsequence := sequence }

/-- A cycle with `rst` = 1. -/
def HostCycle.reset : HostCycle := { rst := true }

/-- `FILLPB v0, v1, ...` from index `i` on: one buffer write a cycle. DESIGN CHOICE (log 22): a value beyond the 32nd goes
to its index modulo 32; 30_encoding.md R93 bounds the list nowhere, and 10_state.md R38 has 5-bit indices only. -/
def fillPbFrom (i : Nat) : List Byte → List HostCycle
  | [] => []
  | v :: rest => HostCycle.setPb (BitVec.ofNat 5 i) v :: fillPbFrom (i + 1) rest

/-- `FILLPB v0, v1, ...`. -/
def fillPb (vs : List Byte) : List HostCycle := fillPbFrom 0 vs

/-- How many of `cmd_valid`, `pb_we`, `tp_we` are 1 (10_state.md R40). -/
def HostCycle.strobes (c : HostCycle) : Nat := c.cmdValid.toNat + c.pbWe.toNat + c.tpWe.toNat

/-- The inputs of the next clock cycle. -/
def State.hostNow (s : State) : HostCycle := s.host.headD HostCycle.idle

/-- A clock cycle begins: its inputs are used up, the `done` of the cycle before is over (10_state.md R41, log 11). -/
def State.beginCycle (s : State) : State :=
  { s with host := s.host.tail, clock := s.clock + 1, done := false }

/-! ### Output ports -/

/-- The output ports of one clock cycle (10_state.md R42). -/
structure Outputs where
  busy : Bool
  done : Bool
  fault : BitVec 2
  ok : Bool
  rdata : Byte
  status : Byte
  rxDr : Bool
  txDs : Bool
  maxRt : Bool
  pbRdata : Byte
  tpSeconds : BitVec 16
  tpSequence : BitVec 8
  csn : Bool
  sck : Bool
  mosi : Bool
deriving DecidableEq, Repr

/-- What the output ports show, with `pb_addr` on the buffer port. `busy`, `done`, `fault`, the TimePacket outputs and
the pins are exact in every cycle; the others are the registers when `BUSY` = 0 and free values while `BUSY` = 1
(10_state.md R37 to R39; U6). Reading changes nothing (R37). -/
def State.outputs (s : State) (pbAddr : BitVec 5) : Outputs where
  busy := s.busy
  done := s.done
  fault := s.fault
  ok := if s.busy then Config.busyBit .ok s.clock else s.ok
  rdata := if s.busy then Config.busyByte .rdata s.clock else s.rdata
  status := if s.busy then Config.busyByte .status s.clock else s.status
  rxDr := if s.busy then Config.busyBit .rxDr s.clock else isDataAvailable s.status
  txDs := if s.busy then Config.busyBit .txDs s.clock else isTxDone s.status
  maxRt := if s.busy then Config.busyBit .maxRt s.clock else isMaxRetries s.status
  pbRdata := if s.busy then Config.busyByte (.pbRdata pbAddr) s.clock else s.pb.read pbAddr
  tpSeconds := s.tp.seconds
  tpSequence := s.tp.sequence
  csn := s.csn
  sck := s.sck
  mosi := s.mosi

end Sys2Proof.Machine
end

