-- ==== Sys2Proof/Decode.lean ====
section
/-! DEFINITION. The host command word: its fields, the total decoder with its two named refusals (30_encoding.md R80,
R82, R95), and after it the canonical encoder (R92). -/

namespace Sys2Proof

/-- `OP` = `cmd[19:16]` (R80). -/
def opField (w : CmdWord) : BitVec 4 := w.extractLsb' 16 4

/-- `A` = `cmd[15:8]` (R80). -/
def aField (w : CmdWord) : Byte := w.extractLsb' 8 8

/-- `D` = `cmd[7:0]` (R80). -/
def dField (w : CmdWord) : Byte := w.extractLsb' 0 8

/-- Why a word is refused (R95: "refused for one named reason"). -/
inductive DecodeError where
  /-- `OP` is 0xA to 0xF (R88) -/
  | illegalOp
  /-- RPAY, WPAY or WREGM with `D` > 32 (R89) -/
  | badLength
deriving DecidableEq, Repr

/-- An operation that takes a length is refused when the length is above 32 (R89). -/
def checkLength (n : Byte) (i : Instr) : Except DecodeError Instr :=
  if lengthOk n then .ok i else .error .badLength

/-- Every one of the 2^20 words is one operation or is refused for one named reason (R95); the operation codes are
those of the table of R82. -/
def decode (w : CmdWord) : Except DecodeError Instr :=
  match (opField w).toNat with
  | 0 => .ok .stat
  | 1 => .ok (.rreg (aField w))
  | 2 => .ok (.wreg (aField w) (dField w))
  | 3 => checkLength (dField w) (.rpay (dField w))
  | 4 => checkLength (dField w) (.wpay (dField w))
  | 5 => .ok .flrx
  | 6 => .ok .fltx
  | 7 => .ok .enc
  | 8 => .ok .dec
  | 9 => checkLength (dField w) (.wregm (aField w) (dField w))
  | _ => .error .illegalOp

/-- A command word from its three fields (R80). -/
def pack (op : BitVec 4) (a d : Byte) : CmdWord := op ++ a ++ d

/-- The canonical word of an operation: 0 in every unused field, the address unmasked in `A` (R92). -/
def encode : Instr → CmdWord
  | .stat => pack 0x0 0 0
  | .rreg a => pack 0x1 a 0
  | .wreg a v => pack 0x2 a v
  | .rpay n => pack 0x3 0 n
  | .wpay n => pack 0x4 0 n
  | .flrx => pack 0x5 0 0
  | .fltx => pack 0x6 0 0
  | .enc => pack 0x7 0 0
  | .dec => pack 0x8 0 0
  | .wregm a n => pack 0x9 a n

/-- The decoder's answer as an option. -/
def decode? (w : CmdWord) : Option Instr :=
  match decode w with
  | .ok i => some i
  | .error _ => none

/-- The command word of a table row's bits: the port is 20 bits wide, and bits of the number above them have no wire
(log 17). -/
def tableWord (nbits w : Nat) : CmdWord := BitVec.ofNat 20 (w % 2 ^ nbits)

/-- The operation the decoder reads from a word numbered as opcode_table.json numbers it (bit 0 least significant). A
number with a bit set above bit 19 is no command word and is refused (log 17). -/
def decodeTableWord (nbits w : Nat) : Option Instr :=
  if w % 2 ^ nbits < 2 ^ 20 then decode? (tableWord nbits w) else none

end Sys2Proof
end

