-- ==== Sys2Proof/Machine/Sequencer.lean ====
section
/-! DEFINITION. The sequencer: a bus operation taken apart into its steps, at the byte level (20_memory.md R70: 3 + n
steps with `BUSY` = 1 between the first and the last) and at the bit level (R53). It shares each operation's description
with the meaning of that operation, and the two levels agree on every trace and every register (R70). -/

namespace Sys2Proof.Machine

/-- The bus operation an operation stands for; ENC and DEC have no frame (30_encoding.md R82). -/
def busOpOf (i : Instr) (pb : Payload) : Option BusOp :=
  match i with
  | .stat => some statOp
  | .rreg a => some (rregOp a)
  | .wreg a v => some (wregOp a v)
  | .rpay n => some (rpayOp n)
  | .wpay n => some (wpayOp n pb)
  | .flrx => some flrxOp
  | .fltx => some fltxOp
  | .enc => none
  | .dec => none
  | .wregm a n => some (wregmOp a n pb)

/-- The operation the latch `CUR` holds. `PB` cannot change while a frame is open, so its bytes are those at acceptance
(20_memory.md R69). -/
def State.inFlight (s : State) : Option BusOp :=
  match decode s.cur with
  | .ok i => busOpOf i s.pb
  | .error _ => none

/-- The sequencer latches at their idle values: they are dead while `BUSY` = 0 (10_state.md R28, log 6). -/
def State.idleLatches (s : State) : State :=
  { s with
    cur := 0
    idx := 0
    ph := .select
    s0 := 0
    din := []
    shift := 0
    bitCount := 0
    shifting := false }

/-- The first act of a frame: `CSN <- 0` (20_memory.md R54). -/
def State.selectTick (s : State) : State := { s.csnLow with ph := .command }

/-- Acceptance of a bus operation below the operation level: `BUSY` is set, the word is latched, the sequencer starts at
(`SELECT`, 0) and does its first act in the same step (10_state.md R27, R28, R33; 20_memory.md R70, log 5). -/
def State.start (s : State) (w : CmdWord) : State :=
  { s.idleLatches with busy := true, cur := w }.selectTick

/-- The last act: `CSN <- 1`, the results written, `BUSY` back to 0, `done` pulsed, the latches dead (20_memory.md R70,
10_state.md R27, R41). -/
def State.finish (s : State) (op : BusOp) : State :=
  { (op.commit s.s0 s.din s.csnHigh).idleLatches with busy := false }.complete

/-! ### One exchange, bit by bit (20_memory.md R52, R53; log 12) -/

/-- The byte `m` enters the shift register and `m[7]` is put on `MOSI` while `SCK` is low. -/
def State.loadShift (s : State) (m : Byte) : State :=
  { s with mosi := m.getLsbD 7, shift := m, bitCount := 7, shifting := true }

/-- A rising edge of `SCK`: the master samples `MISO`, which carries the bit of the slave's byte that the counter names. -/
def State.riseSck (s : State) (m : Byte) : State :=
  { s with
    sck := true
    shift := s.shift.extractLsb' 0 7 ++ BitVec.ofBool ((s.answer m).getLsbD s.bitCount.toNat) }

/-- A falling edge of `SCK` that is not the last of the exchange: the next bit is put on `MOSI`. -/
def State.fallSck (s : State) : State :=
  { s with sck := false, mosi := s.shift.getLsbD 7, bitCount := s.bitCount - 1 }

/-- The eighth falling edge: the exchange is over, the byte received, which the shift register held, is in the trace, and
`MOSI` keeps `m[0]`. DESIGN CHOICE (log 21): the shift register and the bit counter are 0 between two exchanges of a frame;
the spec is silent on them there. -/
def State.lastFallSck (s : State) (m : Byte) : State :=
  { s.exchanged m s.shift with mosi := s.mosi, shift := 0, bitCount := 0, shifting := false }

/-- One step of an exchange at the bit level: loading, then 8 rising and 8 falling edges. `after` says what the sequencer
does with the byte received. -/
def State.bitTick (s : State) (m : Byte) (after : Byte → State → State) : State :=
  if !s.shifting then s.loadShift m
  else if !s.sck then s.riseSck m
  else if s.bitCount = 0 then after s.shift (s.lastFallSck m)
  else s.fallSck

/-- One step of an exchange at the state's level: the whole exchange, or one step of it at the bit level. -/
def State.exchangeTick (s : State) (m : Byte) (after : Byte → State → State) : State :=
  match s.grain with
  | .bit => s.bitTick m after
  | .byte => after (s.xfer m).1 (s.xfer m).2
  | .operation => after (s.xfer m).1 (s.xfer m).2

/-! ### The sequencer's step -/

/-- After the command exchange: `S0` is latched, the data exchanges follow if there are any (10_state.md R28). -/
def afterCommand (op : BusOp) (b : Byte) (s : State) : State :=
  { s with s0 := b, ph := if op.out.length = 0 then .deselect else .data }

/-- After a data exchange: the byte joins `DIN`, `IDX` counts it, the next exchange or the end follows (10_state.md R28,
R33). -/
def afterData (op : BusOp) (b : Byte) (s : State) : State :=
  { s with
    din := s.din ++ [b]
    idx := s.idx + 1
    ph := if s.idx.toNat + 1 < op.out.length then .data else .deselect }

/-- The data byte the sequencer sends next. -/
def nextDataByte (op : BusOp) (s : State) : Byte := op.out.getD s.idx.toNat 0

/-- The frame in flight moves on by one step (20_memory.md R55, R67, R70). -/
def State.tickOp (s : State) (op : BusOp) : State :=
  match s.ph with
  | .select => s.selectTick
  | .command => s.exchangeTick op.cmd (afterCommand op)
  | .data => s.exchangeTick (nextDataByte op s) (afterData op)
  | .deselect => s.finish op

/-- The sequencer's step in a state with a frame in flight. -/
def State.tick (s : State) : Outcome :=
  match s.inFlight with
  | some op => .next (s.tickOp op)
  | none => .fault .sequencerLost

end Sys2Proof.Machine
end

