-- ==== Sys2Proof/Machine/Cycle.lean ====
section
/-! DEFINITION. One clock cycle: reset before everything, a host action checked in the order of 10_state.md R36, the
frame in flight moved on (60_exceptions.md R204 to R207, R212). -/

namespace Sys2Proof.Machine

/-- The fault a refused word raises (30_encoding.md R88, R89). -/
def faultOf : DecodeError → BlockFault
  | .illegalOp => .illegalOp
  | .badLength => .badLength

/-- An accepted operation: performed whole at the operation level; below it a bus operation only begins, and ENC and
DEC, which have no frame, complete in the accepting step (20_memory.md R70, 10_state.md R27). -/
def perform (w : CmdWord) (i : Instr) (s : State) : Outcome :=
  match s.grain with
  | .operation => exec i s
  | .byte => if (busOpOf i s.pb).isSome then s.accept fun s => s.start w else exec i s
  | .bit => if (busOpOf i s.pb).isSome then s.accept fun s => s.start w else exec i s

/-- A command word presented alone (10_state.md R36, 60_exceptions.md R201, R202). -/
def command (w : CmdWord) (s : State) : Outcome :=
  match decode w with
  | .error e => s.accept fun s => s.raise (faultOf e)
  | .ok i => perform w i s

/-- What the host presents to a block that is not busy: two or more actions raise BadAccess, one is taken, and any is
dropped while `FAULT` is non-zero (10_state.md R36, R38, R39, R40). -/
def hostAction (c : HostCycle) (s : State) : Outcome :=
  if 1 < c.strobes then .next s.refuseAccess
  else if c.cmdValid then command c.cmd s
  else if c.pbWe then s.accept fun s => s.writePb c.pbAddr c.pbWdata
  else if c.tpWe then s.accept fun s => s.writeTp c.tpWseconds c.tpWsequence
  else .next s

/-- What the host presents while a frame is in flight: any action is refused, and the frame is not disturbed
(60_exceptions.md R204, R207). -/
def overlap (c : HostCycle) (s : State) : State := if c.strobes = 0 then s else s.refuseAccess

/-- One clock cycle with the inputs `c`: `rst` = 1 beats everything (60_exceptions.md R206); with a frame in flight the
host is refused and the frame moves on if the bus does; else the host's action is taken. -/
def cycle (c : HostCycle) (s : State) : Outcome :=
  if c.rst then .next s.resetBlock
  else if s.busy then
    if c.advance then (overlap c s).tick else .next (overlap c s)
  else hostAction c s

end Sys2Proof.Machine
end

