-- ==== Sys2Proof/Machine/Step.lean ====
section
/-! DEFINITION. The step: one clock cycle with the host's next inputs, and how a word is placed where the next step takes
it. -/

namespace Sys2Proof.Machine

/-- One step: the next clock cycle (log 2). The block fetches nothing; the command port stands where a fetch would
(10_state.md R33, R36). -/
def step (s : State) : Host.Outcome State Fault Refusal := cycle s.hostNow s.beginCycle

/-- `s` with the command word presented alone in its next clock cycle, at the operation level, so that the very next
step performs it whole (log 14, log 17). -/
def State.withFetchWord (s : State) (nbits w : Nat) : State :=
  { s with host := HostCycle.command (tableWord nbits w) :: s.host, grain := .operation }

end Sys2Proof.Machine
end

