-- ==== Sys2Proof/Safety.lean ====
section
/-! DEFINITION. The terms claims are stated in: a block that can take a command, a good run, the shape of the bus trace,
and the invariant of the machine. -/

namespace Sys2Proof.Machine

/-- The block accepts a command: `FAULT` = 0 and `BUSY` = 0 (10_state.md R36). -/
abbrev Ready (s : State) : Prop := s.fault = 0 ∧ s.busy = false

/-- A state of a good run: no fault has been raised (60_exceptions.md R205: "a model must not count a run that ends
faulted as a good run"). -/
abbrev Good (s : State) : Prop := s.fault = 0

/-- The block at the reset values of 10_state.md R43, its dead latches as in `t`. -/
def resetKeepingLatches (t : State) : Block :=
  { Block.reset with
    cur := t.cur
    idx := t.idx
    ph := t.ph
    s0 := t.s0
    din := t.din
    shift := t.shift
    bitCount := t.bitCount
    shifting := t.shifting }

/-! ### The bus trace -/

/-- The events of one bracket: `CsnLow`, the command exchange, the data exchanges, `CsnHigh` (20_memory.md R55, R61). -/
def bracket (c s0 : Byte) (out din : List Byte) : List BusEvent :=
  .csnLow :: .x c s0 :: List.zipWith .x out din ++ [.csnHigh]

/-- The bytes the slave gives in the state's next exchanges: its script as far as it goes, any byte beyond it
(20_memory.md R62). -/
def SlaveGives (s : State) (bytes : List Byte) : Prop :=
  bytes.take s.slave.length = s.slave.take bytes.length

/-- Between `s` and `t` the block put exactly one frame on the bus: command byte `c`, data bytes `out`, answered by `s0`
and `din`, bytes the slave gives (20_memory.md R55, R61, R62). -/
def FrameSent (s t : State) (c : Byte) (out : List Byte) (s0 : Byte) (din : List Byte) : Prop :=
  din.length = out.length ∧ SlaveGives s (s0 :: din) ∧ t.trace = s.trace ++ bracket c s0 out din

/-- The level of `MOSI` after a frame: the last bit sent (10_state.md R29). -/
def lastBitSent (c : Byte) (out : List Byte) : Bool := (out.getLastD c).getLsbD 0

/-- Where a trace stands: between frames, inside a frame after some exchanges, or no trace of the block. -/
inductive TraceShape where
  | closed
  | opened (exchanges : Nat)
  | broken
deriving DecidableEq, Repr

/-- How one event moves on the shape: a frame has 1 to 33 exchanges, and a `CsnHigh` ends it at any point because a
reset may cut it (20_memory.md R55, R61; 70_reset_and_hazards.md R232). -/
def TraceShape.next : TraceShape → BusEvent → TraceShape
  | .closed, .csnLow => .opened 0
  | .opened k, .x _ _ => if k < 33 then .opened (k + 1) else .broken
  | .opened _, .csnHigh => .closed
  | .closed, .x _ _ => .broken
  | .closed, .csnHigh => .broken
  | .opened _, .csnLow => .broken
  | .broken, _ => .broken

/-- The shape of a whole trace. -/
def traceShape (t : List BusEvent) : TraceShape := t.foldl TraceShape.next .closed

/-! ### The invariant -/

/-- The latches of a block that is not busy: dead, at the values the model names (10_state.md R28, log 6). -/
def LatchesIdle (s : State) : Prop :=
  s.cur = 0 ∧ s.idx = 0 ∧ s.ph = .select ∧ s.s0 = 0 ∧ s.din = [] ∧ s.shift = 0 ∧ s.bitCount = 0 ∧ s.shifting = false

/-- A block that is not busy: chip-select high, the bus clock low, the latches dead, the trace between frames
(20_memory.md R54: the block "never leaves it low when `BUSY` = 0"). -/
def AtRest (s : State) : Prop :=
  s.csn = true ∧ s.sck = false ∧ LatchesIdle s ∧ traceShape s.trace = .closed

/-- How far the frame in flight has got, by the phase: `IDX` counts the bytes in `DIN`, it never passes the frame's
length, and the trace shows the exchanges made (10_state.md R28, R33; 20_memory.md R55, R67). -/
def PhaseAgrees (s : State) (op : BusOp) : Prop :=
  s.din.length = s.idx.toNat ∧
  match s.ph with
  | .select => False
  | .command => s.idx = 0 ∧ traceShape s.trace = .opened 0
  | .data => s.idx.toNat < op.out.length ∧ traceShape s.trace = .opened (s.idx.toNat + 1)
  | .deselect => s.idx.toNat = op.out.length ∧ s.shifting = false ∧
      traceShape s.trace = .opened (op.out.length + 1)

/-- A busy block: chip-select low, no completion strobe, a bus operation of at most 32 data bytes latched, its progress
in step with the trace; the bus clock is high only inside an exchange, and an exchange is taken apart only at the bit
level (10_state.md R27, R28). -/
def InFrame (s : State) : Prop :=
  s.csn = false ∧ s.done = false ∧ (s.sck = true → s.shifting = true) ∧ (s.shifting = true → s.grain = .bit) ∧
  ∃ op, s.inFlight = some op ∧ op.out.length ≤ 32 ∧ PhaseAgrees s op

/-- The invariant every step keeps. -/
def MachineInv (s : State) : Prop := if s.busy then InFrame s else AtRest s

/-! ### Runs -/

/-- A command word presented alone: `rst` = 0, `cmd_valid` = 1, `pb_we` = 0, `tp_we` = 0 (60_exceptions.md R201). -/
abbrev HostCycle.commandAlone (c : HostCycle) : Prop :=
  c.rst = false ∧ c.cmdValid = true ∧ c.pbWe = false ∧ c.tpWe = false

/-- A cycle in which the host presents no action and no reset. -/
abbrev HostCycle.silent (c : HostCycle) : Prop := c.rst = false ∧ c.strobes = 0

/-- The same clock cycle with no host action in it: the bus moves as it did. -/
def HostCycle.withoutAction (c : HostCycle) : HostCycle := { HostCycle.idle with advance := c.advance }

/-- `k` steps of the machine, stopping at the first stop. -/
abbrev run (k : Nat) (s : State) : Outcome := Host.Core.run Sys2Proof.core k s

/-- The host presents nothing more, and the bus moves in every cycle. -/
abbrev HostSilent (s : State) : Prop := s.host = []

end Sys2Proof.Machine
end

