-- ==== Sys2Proof/Certificates/Slice0/Obligations.lean ====
section
/-! DEFINITION. The statements about SPIM-PC for the provers. Each docstring names the rule of spec/ it formalises. An
operation's result is stated over `toBlock`, the block's own registers, pins and latches all at once: what the record
update does not name is unchanged, so each of these is the operation's frame as well. The slave's bytes are existential
and tied to the slave by `SlaveGives`: equal to the script as far as it goes, any byte beyond it. -/

open Sys2Proof Sys2Proof.Machine

/-! ### Encodings -/

/-- Command words written out bit by bit from 30_encoding.md R80 and R82 and the words of 95_test_vectors.md V2 decode to
the operations they stand for, and the refused ones to their reasons. -/
def Obligations.DecodeReadsTheSpecsWords : Prop :=
  decode 0b0000_00000000_00000000#20 = .ok .stat ∧
  decode 0b0001_00000111_11111111#20 = .ok (.rreg 0x07) ∧
  decode 0b0010_00000101_01001100#20 = .ok (.wreg 0x05 0x4C) ∧
  decode 0b0011_11111111_00100000#20 = .ok (.rpay 32) ∧
  decode 0b0100_00000000_00100000#20 = .ok (.wpay 32) ∧
  decode 0b0101_00000000_00000000#20 = .ok .flrx ∧
  decode 0b0110_00000000_00000000#20 = .ok .fltx ∧
  decode 0b0111_11111111_11111111#20 = .ok .enc ∧
  decode 0b1000_00000000_00000000#20 = .ok .dec ∧
  decode 0b1001_00001010_00000101#20 = .ok (.wregm 0x0A 5) ∧
  decode 0b0011_00000000_00100001#20 = .error .badLength ∧
  decode 0b1010_00000000_00000000#20 = .error .illegalOp

/-- The canonical command words of 30_encoding.md R92, as numbers. -/
def Obligations.EncodeWritesTheCanonicalWords : Prop :=
  (encode .stat).toNat = 0x00000 ∧
  (∀ a, (encode (.rreg a)).toNat = 0x10000 + a.toNat * 2 ^ 8) ∧
  (∀ a v, (encode (.wreg a v)).toNat = 0x20000 + a.toNat * 2 ^ 8 + v.toNat) ∧
  (∀ n, (encode (.rpay n)).toNat = 0x30000 + n.toNat) ∧
  (∀ n, (encode (.wpay n)).toNat = 0x40000 + n.toNat) ∧
  (encode .flrx).toNat = 0x50000 ∧
  (encode .fltx).toNat = 0x60000 ∧
  (encode .enc).toNat = 0x70000 ∧
  (encode .dec).toNat = 0x80000 ∧
  (∀ a n, (encode (.wregm a n)).toNat = 0x90000 + a.toNat * 2 ^ 8 + n.toNat)

/-- Decoding the canonical word of a well-formed operation gives it back with every operand, both from the 20-bit word
and from the word as the opcode table numbers it (R92, R95). How a table number is read is the model's choice of log 17. -/
def Obligations.DecodeOfEncodeIsTheInstruction : Prop :=
  ∀ i : Instr, i.wellFormed = true →
    decode (encode i) = .ok i ∧ decodeTableWord 20 (encode i).toNat = some i ∧
      decodeTableWord 24 (encode i).toNat = some i

/-- Every one of the 2^20 words is one operation with definite operands, well formed, or refused for one named reason;
two different words can denote the same operation (30_encoding.md R95 with the table of R82). -/
def Obligations.DecodingIsTotalWithNamedRefusals : Prop :=
  (∀ w : CmdWord,
    let op := (w.extractLsb' 16 4).toNat
    let a := w.extractLsb' 8 8
    let d := w.extractLsb' 0 8
    (9 < op → decode w = .error .illegalOp) ∧
    ((op = 3 ∨ op = 4 ∨ op = 9) → 32 < d.toNat → decode w = .error .badLength) ∧
    (op = 0 → decode w = .ok .stat) ∧
    (op = 1 → decode w = .ok (.rreg a)) ∧
    (op = 2 → decode w = .ok (.wreg a d)) ∧
    (op = 3 → d.toNat ≤ 32 → decode w = .ok (.rpay d)) ∧
    (op = 4 → d.toNat ≤ 32 → decode w = .ok (.wpay d)) ∧
    (op = 5 → decode w = .ok .flrx) ∧
    (op = 6 → decode w = .ok .fltx) ∧
    (op = 7 → decode w = .ok .enc) ∧
    (op = 8 → decode w = .ok .dec) ∧
    (op = 9 → d.toNat ≤ 32 → decode w = .ok (.wregm a d)) ∧
    (∀ i, decode w = .ok i → i.wellFormed = true)) ∧
  ∃ (w w' : CmdWord) (i : Instr), w ≠ w' ∧ decode w = .ok i ∧ decode w' = .ok i

/-- 30_encoding.md R83: a field an operation does not use changes nothing, `A[7:5]` is dropped by the mask, the encoder
writes zeros into the unused fields, and nothing but an unassigned `OP` or a length above 32 is refused. -/
def Obligations.UnusedFieldsAreIgnored : Prop :=
  (∀ w w' : CmdWord, opField w = opField w' →
    ((opField w).toNat ∈ [0, 5, 6, 7, 8] → decode w = decode w') ∧
    ((opField w).toNat = 1 → aField w = aField w' → decode w = decode w') ∧
    ((opField w).toNat ∈ [3, 4] → dField w = dField w' → decode w = decode w')) ∧
  (∀ (a a' v n : Byte) (s : State), a &&& 0x1F = a' &&& 0x1F →
    exec (.rreg a) s = exec (.rreg a') s ∧ exec (.wreg a v) s = exec (.wreg a' v) s ∧
      exec (.wregm a n) s = exec (.wregm a' n) s) ∧
  (∀ i ∈ [Instr.stat, .flrx, .fltx, .enc, .dec], aField (encode i) = 0 ∧ dField (encode i) = 0) ∧
  (∀ a, dField (encode (.rreg a)) = 0) ∧
  (∀ n, aField (encode (.rpay n)) = 0 ∧ aField (encode (.wpay n)) = 0) ∧
  (∀ w : CmdWord, (∃ e, decode w = .error e) ↔
    9 < (opField w).toNat ∨ ((opField w).toNat ∈ [3, 4, 9] ∧ 32 < (dField w).toNat))

/-- 30_encoding.md R86: the two command bytes the source fixes, with their bit patterns `000AAAAA` and `001AAAAA`, their
ranges, and the distance between them. -/
def Obligations.RegisterCommandBytes : Prop :=
  ∀ a : Byte,
    rcmd a = 0x00 ||| (a &&& 0x1F) ∧ wcmd a = 0x20 ||| (a &&& 0x1F) ∧
    rcmd a = 0b000#3 ++ a.extractLsb' 0 5 ∧ wcmd a = 0b001#3 ++ a.extractLsb' 0 5 ∧
    (rcmd a).toNat ≤ 0x1F ∧ 0x20 ≤ (wcmd a).toNat ∧ (wcmd a).toNat ≤ 0x3F ∧ wcmd a = rcmd a + 0x20

/-! ### The ten operations: encoding, frame on the bus, every register after

The strobe `done` is left to `DonePulsesExactlyOnCompletion` and `OnlyAFailedRegisterWriteClearsOk`. -/

/-- STAT (40_register_access.md R110). -/
def Obligations.StatCapturesTheStatusByte : Prop :=
  (∀ w : CmdWord, w.extractLsb' 16 4 = 0x0 → decode w = .ok .stat) ∧ encode .stat = 0x00000 ∧
  ∀ s : State, Ready s → ∃ (s0 : Byte) (t : State),
    exec .stat s = .next t ∧ FrameSent s t Config.CMD_NOP [] s0 [] ∧
    t.toBlock = { s.toBlock with
      status := s0, ok := true, done := t.done, csn := true, sck := false, mosi := Config.CMD_NOP.getLsbD 0 }

/-- RREG a (R112): `STATUS` is not written, the command-phase byte is discarded. -/
def Obligations.RregReadsOneByteIntoRdata : Prop :=
  (∀ w : CmdWord, w.extractLsb' 16 4 = 0x1 → decode w = .ok (.rreg (w.extractLsb' 8 8))) ∧
  (∀ a, (encode (.rreg a)).toNat = 0x10000 + a.toNat * 2 ^ 8) ∧
  ∀ (a : Byte) (s : State), Ready s → ∃ (s0 d : Byte) (t : State),
    exec (.rreg a) s = .next t ∧ FrameSent s t (0x00 ||| (a &&& 0x1F)) [Config.DUMMY_BYTE] s0 [d] ∧
    t.toBlock = { s.toBlock with
      rdata := d, ok := true, done := t.done, csn := true, sck := false, mosi := Config.DUMMY_BYTE.getLsbD 0 }

/-- WREG a, v (R114): the value is sent whatever the command-phase byte; `OK` is 1 iff bit 0x20 of that byte is clear. -/
def Obligations.WregWritesAndChecksTheStatusByte : Prop :=
  (∀ w : CmdWord, w.extractLsb' 16 4 = 0x2 → decode w = .ok (.wreg (w.extractLsb' 8 8) (w.extractLsb' 0 8))) ∧
  (∀ a v, (encode (.wreg a v)).toNat = 0x20000 + a.toNat * 2 ^ 8 + v.toNat) ∧
  ∀ (a v : Byte) (s : State), Ready s → ∃ (s0 d : Byte) (t : State),
    exec (.wreg a v) s = .next t ∧ FrameSent s t (0x20 ||| (a &&& 0x1F)) [v] s0 [d] ∧
    t.toBlock = { s.toBlock with
      status := s0, ok := decide (s0 &&& 0x20 = 0), done := t.done, csn := true, sck := false, mosi := v.getLsbD 0 }

/-- WREGM a, n (R120): `PB[0]` first; BadLength when n > 32. -/
def Obligations.WregmWritesBufferBytesAndChecks : Prop :=
  (∀ w : CmdWord, w.extractLsb' 16 4 = 0x9 → (w.extractLsb' 0 8).toNat ≤ 32 →
    decode w = .ok (.wregm (w.extractLsb' 8 8) (w.extractLsb' 0 8))) ∧
  (∀ a n, (encode (.wregm a n)).toNat = 0x90000 + a.toNat * 2 ^ 8 + n.toNat) ∧
  ∀ (a n : Byte) (s : State), Ready s →
    (n.toNat ≤ 32 → ∃ (s0 : Byte) (din : List Byte) (t : State),
      exec (.wregm a n) s = .next t ∧
      FrameSent s t (0x20 ||| (a &&& 0x1F)) (s.pb.toList.take n.toNat) s0 din ∧
      t.toBlock = { s.toBlock with
        status := s0, ok := decide (s0 &&& 0x20 = 0), done := t.done, csn := true, sck := false
        mosi := lastBitSent (0x20 ||| (a &&& 0x1F)) (s.pb.toList.take n.toNat) }) ∧
    (32 < n.toNat → ∃ t : State,
      exec (.wregm a n) s = .next t ∧ t.toBlock = { s.toBlock with fault := 2 } ∧ t.trace = s.trace)

/-- RPAY n (41_payload_fifo.md R130): `PB[0..n-1]` take the received bytes in order, `PB[n..31]` keep theirs; BadLength
when n > 32. -/
def Obligations.RpayFillsTheBuffer : Prop :=
  (∀ w : CmdWord, w.extractLsb' 16 4 = 0x3 → (w.extractLsb' 0 8).toNat ≤ 32 →
    decode w = .ok (.rpay (w.extractLsb' 0 8))) ∧
  (∀ n, (encode (.rpay n)).toNat = 0x30000 + n.toNat) ∧
  ∀ (n : Byte) (s : State), Ready s →
    (n.toNat ≤ 32 → ∃ (s0 : Byte) (din : List Byte) (t : State),
      exec (.rpay n) s = .next t ∧
      FrameSent s t Config.CMD_R_RX_PAYLOAD (List.replicate n.toNat Config.DUMMY_BYTE) s0 din ∧
      t.pb.toList = din ++ s.pb.toList.drop n.toNat ∧
      t.toBlock = { s.toBlock with
        pb := t.pb, ok := true, done := t.done, csn := true, sck := false
        mosi := lastBitSent Config.CMD_R_RX_PAYLOAD (List.replicate n.toNat Config.DUMMY_BYTE) }) ∧
    (32 < n.toNat → ∃ t : State,
      exec (.rpay n) s = .next t ∧ t.toBlock = { s.toBlock with fault := 2 } ∧ t.trace = s.trace)

/-- WPAY n (R132): `PB[0..n-1]` sent in order, `OK` the only register written; BadLength when n > 32. -/
def Obligations.WpaySendsTheBuffer : Prop :=
  (∀ w : CmdWord, w.extractLsb' 16 4 = 0x4 → (w.extractLsb' 0 8).toNat ≤ 32 →
    decode w = .ok (.wpay (w.extractLsb' 0 8))) ∧
  (∀ n, (encode (.wpay n)).toNat = 0x40000 + n.toNat) ∧
  ∀ (n : Byte) (s : State), Ready s →
    (n.toNat ≤ 32 → ∃ (s0 : Byte) (din : List Byte) (t : State),
      exec (.wpay n) s = .next t ∧
      FrameSent s t Config.CMD_W_TX_PAYLOAD (s.pb.toList.take n.toNat) s0 din ∧
      t.toBlock = { s.toBlock with
        ok := true, done := t.done, csn := true, sck := false
        mosi := lastBitSent Config.CMD_W_TX_PAYLOAD (s.pb.toList.take n.toNat) }) ∧
    (32 < n.toNat → ∃ t : State,
      exec (.wpay n) s = .next t ∧ t.toBlock = { s.toBlock with fault := 2 } ∧ t.trace = s.trace)

/-- FLRX (R134): `OK` is the only register written. -/
def Obligations.FlrxSendsTheFlushCommand : Prop :=
  (∀ w : CmdWord, w.extractLsb' 16 4 = 0x5 → decode w = .ok .flrx) ∧ encode .flrx = 0x50000 ∧
  ∀ s : State, Ready s → ∃ (s0 : Byte) (t : State),
    exec .flrx s = .next t ∧ FrameSent s t Config.CMD_FLUSH_RX [] s0 [] ∧
    t.toBlock = { s.toBlock with
      ok := true, done := t.done, csn := true, sck := false, mosi := Config.CMD_FLUSH_RX.getLsbD 0 }

/-- FLTX (R135): as FLRX with its own command byte. -/
def Obligations.FltxSendsTheFlushCommand : Prop :=
  (∀ w : CmdWord, w.extractLsb' 16 4 = 0x6 → decode w = .ok .fltx) ∧ encode .fltx = 0x60000 ∧
  ∀ s : State, Ready s → ∃ (s0 : Byte) (t : State),
    exec .fltx s = .next t ∧ FrameSent s t Config.CMD_FLUSH_TX [] s0 [] ∧
    t.toBlock = { s.toBlock with
      ok := true, done := t.done, csn := true, sck := false, mosi := Config.CMD_FLUSH_TX.getLsbD 0 }

/-- ENC (42_packet_codec.md R153): all 32 bytes of `PB`, no frame, `BUSY` and `CSN` as they were; twice is as once. -/
def Obligations.EncOverwritesTheBuffer : Prop :=
  (∀ w : CmdWord, w.extractLsb' 16 4 = 0x7 → decode w = .ok .enc) ∧ encode .enc = 0x70000 ∧
  ∀ s : State, Ready s → ∃ t : State,
    exec .enc s = .next t ∧ t.trace = s.trace ∧ t.slave = s.slave ∧
    t.toBlock = { s.toBlock with pb := encodePacket s.tp, ok := true, done := t.done } ∧
    exec .enc t = .next t

/-- DEC (R154): both fields of `TP` from bytes 0 to 2 of `PB`, no frame; twice is as once. -/
def Obligations.DecLoadsTheTimePacket : Prop :=
  (∀ w : CmdWord, w.extractLsb' 16 4 = 0x8 → decode w = .ok .dec) ∧ encode .dec = 0x80000 ∧
  ∀ s : State, Ready s → ∃ t : State,
    exec .dec s = .next t ∧ t.trace = s.trace ∧ t.slave = s.slave ∧
    t.toBlock = { s.toBlock with
      tp := { seconds := s.pb[0] ++ s.pb[1], sequence := s.pb[2] }, ok := true, done := t.done } ∧
    exec .dec t = .next t

/-! ### All operations at once -/

/-- 10_state.md R36 items 1 and 2, for every operation and every operand: a command given to a faulted block is dropped,
one given to a busy block raises BadAccess, and neither has any other effect. -/
def Obligations.CommandsAreTakenOnlyWhenReady : Prop :=
  ∀ (i : Instr) (s : State),
    (s.fault ≠ 0 → exec i s = .next s) ∧
    (s.fault = 0 → s.busy = true → exec i s = .next { s with fault := 3 })

/-- The table of 10_state.md R26 read by columns: `RDATA` is written by RREG only, `STATUS` by STAT, WREG and WREGM
only, `PB` by RPAY and ENC only, `TP` by DEC only; no operation moves `BUSY` or a latch, and none reads or writes the
host's pending inputs (R24: "by no other operation"). That `exec` moves no latch, no pending input, no cycle count and no
level is the model's choice: `exec` performs an operation whole (log 1), with the dead latches left alone (log 6), and a
clock cycle does the rest (log 2, 9). -/
def Obligations.RegistersAreWrittenOnlyByTheirOperations : Prop :=
  ∀ (i : Instr) (s t : State), exec i s = .next t →
    (t.rdata = s.rdata ∨ ∃ a, i = .rreg a) ∧
    (t.status = s.status ∨ i = .stat ∨ (∃ a v, i = .wreg a v) ∨ ∃ a n, i = .wregm a n) ∧
    (t.pb = s.pb ∨ i = .enc ∨ ∃ n, i = .rpay n) ∧
    (t.tp = s.tp ∨ i = .dec) ∧
    t.toBlock = { s.toBlock with
      pb := t.pb, tp := t.tp, rdata := t.rdata, status := t.status, ok := t.ok, fault := t.fault, done := t.done
      csn := t.csn, sck := t.sck, mosi := t.mosi } ∧
    t.host = s.host ∧ t.clock = s.clock ∧ t.grain = s.grain

/-- `OK` belongs to the last completed operation: after an accepted operation it is 0 only if that was WREG or WREGM and
the status byte captured has bit 0x20 set; the block stays ready, for a failed write is no fault (10_state.md R25,
60_exceptions.md R209). That `done` is 1 in the state after is the reading of 10_state.md R41 in log 11. -/
def Obligations.OnlyAFailedRegisterWriteClearsOk : Prop :=
  ∀ (i : Instr) (s t : State), Ready s → i.wellFormed = true → exec i s = .next t →
    Ready t ∧ t.done = true ∧
    (t.ok = false ↔ ((∃ a v, i = .wreg a v) ∨ ∃ a n, i = .wregm a n) ∧ t.status &&& 0x20 ≠ 0)

/-- 30_encoding.md R91: whatever operation is run, either nothing goes on the bus or one whole frame does, whose first
byte is 0x00 to 0x3F or one of the five parameter bytes, with at most 32 data bytes. -/
def Obligations.EveryFrameBeginsWithAKnownCommandByte : Prop :=
  ∀ (i : Instr) (s t : State), exec i s = .next t →
    t.trace = s.trace ∨ ∃ (c s0 : Byte) (out din : List Byte),
      (c.toNat ≤ 0x3F ∨ c = Config.CMD_NOP ∨ c = Config.CMD_R_RX_PAYLOAD ∨ c = Config.CMD_W_TX_PAYLOAD ∨
        c = Config.CMD_FLUSH_RX ∨ c = Config.CMD_FLUSH_TX) ∧
      out.length ≤ 32 ∧ din.length = out.length ∧ t.trace = s.trace ++ bracket c s0 out din

/-- 40_register_access.md R116: the write check is the transmit-done bit, so whenever the slave's status byte has that bit
set, every WREG and WREGM reports `OK` = 0, and only then. -/
def Obligations.TransmitDoneMakesEveryWriteFail : Prop :=
  ∀ (a v n : Byte) (s t : State), Ready s → n.toNat ≤ 32 →
    (exec (.wreg a v) s = .next t ∨ exec (.wregm a n) s = .next t) → t.ok = !isTxDone t.status

/-- `WREGM a, 1` does to the whole machine what `WREG a, PB[0]` does (R120: "n = 1 puts the same bytes on the wire"). -/
def Obligations.WregmOfOneByteIsWreg : Prop :=
  ∀ (a : Byte) (s : State), exec (.wregm a 1) s = exec (.wreg a s.pb[0]) s

/-- 40_register_access.md R118: each predicate tests its mask, is its one bit of the byte and no other, and is the wire of
the block that shows it for `STATUS`. -/
def Obligations.StatusPredicatesAreSingleBits : Prop :=
  (∀ s : Byte, isDataAvailable s = decide (s &&& 0x40 ≠ 0) ∧ isTxDone s = decide (s &&& 0x20 ≠ 0) ∧
    isMaxRetries s = decide (s &&& 0x10 ≠ 0)) ∧
  (∀ s : Byte, isDataAvailable s = s.getLsbD 6 ∧ isTxDone s = s.getLsbD 5 ∧ isMaxRetries s = s.getLsbD 4) ∧
  ∀ (s : State) (a : BitVec 5), s.busy = false →
    (s.outputs a).rxDr = isDataAvailable s.status ∧ (s.outputs a).txDs = isTxDone s.status ∧
    (s.outputs a).maxRt = isMaxRetries s.status

/-! ### The codec -/

/-- 42_packet_codec.md R150, byte by byte. -/
def Obligations.EncodeLaysOutThePayload : Prop :=
  ∀ p : TimePacket,
    (encodePacket p)[0] = p.seconds.extractLsb' 8 8 ∧ (encodePacket p)[1] = p.seconds.extractLsb' 0 8 ∧
    (encodePacket p)[2] = p.sequence ∧
    ∀ (i : Nat) (h : i < 32), 3 ≤ i → (encodePacket p)[i] = 0x00

/-- 42_packet_codec.md R151: the two fields, as numbers, and the bytes beyond index 2 ignored. -/
def Obligations.DecodeReadsTheFirstThreeBytes : Prop :=
  (∀ b : Payload, (decodePacket b).seconds.toNat = b[0].toNat * 2 ^ 8 + b[1].toNat ∧ (decodePacket b).sequence = b[2]) ∧
  ∀ b b' : Payload, b[0] = b'[0] → b[1] = b'[1] → b[2] = b'[2] → decodePacket b = decodePacket b'

/-- 42_packet_codec.md R152, its five laws. -/
def Obligations.CodecLaws : Prop :=
  (∀ p, decodePacket (encodePacket p) = p) ∧
  (∀ (p : TimePacket) (i : Nat) (h : i < 32), 3 ≤ i → (encodePacket p)[i] = 0x00) ∧
  (∀ b : Payload, (encodePacket (decodePacket b) = b ↔ ∀ (i : Nat) (h : i < 32), 3 ≤ i → b[i] = 0x00) ∧
    ∀ (i : Nat) (h : i < 32), (encodePacket (decodePacket b))[i] = if i < 3 then b[i] else 0x00) ∧
  ((∃ b b' : Payload, b ≠ b' ∧ decodePacket b = decodePacket b') ∧
    (∀ p p', encodePacket p = encodePacket p' → p = p') ∧ ∀ p, ∃ b, decodePacket b = p) ∧
  ∀ x y z : Byte, ∃ p, (encodePacket p)[0] = x ∧ (encodePacket p)[1] = y ∧ (encodePacket p)[2] = z

/-- ENC then DEC leaves `TP` as it was (95_test_vectors.md S1); DEC then ENC, what a relay sends, keeps bytes 0 to 2 of
`PB` and zeroes the rest (42_packet_codec.md R156). -/
def Obligations.CodecOperationsCompose : Prop :=
  ∀ s : State, Ready s →
    (∃ t u : State, exec .enc s = .next t ∧ exec .dec t = .next u ∧ u.tp = s.tp) ∧
    ∃ t u : State, exec .dec s = .next t ∧ exec .enc t = .next u ∧
      u.pb.toList = s.pb.toList.take 3 ++ List.replicate 29 0x00

/-! ### A step runs the decoded operation -/

/-- The cycle that presents a command word alone runs its operation: at the operation level the step is `exec` of it at
the state the cycle begins with (its inputs used up, the cycle counted, `done` over); a word placed by `withFetchWord`
runs so. What a cycle begins with and how a word is placed are the model's choices of log 2, 11 and 14. -/
def Obligations.StepRunsTheDecodedInstruction : Prop :=
  (∀ (s : State) (i : Instr), s.hostNow.commandAlone → s.busy = false → s.grain = .operation →
    decode s.hostNow.cmd = .ok i →
    step s = exec i { s with host := s.host.tail, clock := s.clock + 1, done := false }) ∧
  ∀ (s : State) (w : Nat) (i : Instr), s.busy = false → decodeTableWord 24 w = some i →
    step (s.withFetchWord 24 w) = exec i { s with clock := s.clock + 1, done := false, grain := .operation }

/-- Below the operation level the same cycle begins the frame: `BUSY` is set, chip-select falls, the word is latched,
the command exchange is next; ENC and DEC run whole (20_memory.md R70, 10_state.md R27). That acceptance and `CsnLow`
are one step is the model's choice of log 1 and 5; the values of `S0`, `DIN`, the shift register, the bit counter and
`shifting` as the frame begins are those of log 6 and 12; what a cycle begins with is log 2 and 11. -/
def Obligations.StepBeginsAFrameBelowOperationLevel : Prop :=
  ∀ (s : State) (i : Instr), s.hostNow.commandAlone → Ready s → s.grain ≠ .operation →
    decode s.hostNow.cmd = .ok i →
    (i ≠ .enc → i ≠ .dec → ∃ t : State, step s = .next t ∧ t.trace = s.trace ++ [.csnLow] ∧
      t.toBlock = { s.toBlock with
        busy := true, done := false, csn := false, cur := s.hostNow.cmd, idx := 0, ph := .command, s0 := 0, din := []
        shift := 0, bitCount := 0, shifting := false }) ∧
    ((i = .enc ∨ i = .dec) →
      step s = exec i { s with host := s.host.tail, clock := s.clock + 1, done := false })

/-! ### Faults -/

/-- IllegalOp (60_exceptions.md R201, 30_encoding.md R88): `FAULT` = 1, no frame, no other register. -/
def Obligations.UnassignedCodeRaisesIllegalOp : Prop :=
  ∀ s : State, s.hostNow.commandAlone → Ready s → 9 < (s.hostNow.cmd.extractLsb' 16 4).toNat →
    ∃ t : State, step s = .next t ∧ t.toBlock = { s.toBlock with fault := 1, done := false } ∧ t.trace = s.trace

/-- BadLength (60_exceptions.md R202): `FAULT` = 2 for RPAY, WPAY or WREGM with a length above 32, and only above 32. -/
def Obligations.LengthAbove32RaisesBadLength : Prop :=
  ∀ s : State, s.hostNow.commandAlone → Ready s → (s.hostNow.cmd.extractLsb' 16 4).toNat ∈ [3, 4, 9] →
    (32 < (s.hostNow.cmd.extractLsb' 0 8).toNat →
      ∃ t : State, step s = .next t ∧ t.toBlock = { s.toBlock with fault := 2, done := false } ∧ t.trace = s.trace) ∧
    ((s.hostNow.cmd.extractLsb' 0 8).toNat ≤ 32 → ∃ t : State, step s = .next t ∧ t.fault = 0)

/-- BadAccess (60_exceptions.md R204): an action presented to a busy block, or two at once, raises `Fault(3)` and none of
them takes effect; a frame in flight moves as it does in the same cycle with no action in it. -/
def Obligations.OverlapRaisesBadAccess : Prop :=
  ∀ s : State, s.hostNow.rst = false → s.fault = 0 →
    (s.busy = false → 1 < s.hostNow.strobes →
      ∃ t : State, step s = .next t ∧ t.toBlock = { s.toBlock with fault := 3, done := false } ∧ t.trace = s.trace) ∧
    (s.busy = true → 0 < s.hostNow.strobes →
      ∀ t : State, step { s with host := s.hostNow.withoutAction :: s.host.tail } = .next t →
        step s = .next { t with fault := 3 })

/-- A fault does not disturb the frame in flight (60_exceptions.md R207): after an action that overlaps it, every later
state of a run with a silent host is the one the run without that action has, but for `FAULT` = 3. -/
def Obligations.AFaultLeavesTheFrameUndisturbed : Prop :=
  ∀ (s : State) (c : HostCycle) (rest : List HostCycle) (k : Nat) (t : State),
    s.busy = true → s.fault = 0 → s.host = c :: rest → c.rst = false → 0 < c.strobes → (∀ d ∈ rest, d.silent) →
    run (k + 1) { s with host := c.withoutAction :: rest } = .next t →
    run (k + 1) s = .next { t with fault := 3 }

/-- The order of the checks (60_exceptions.md R206): reset beats everything and then nothing is accepted, a faulted block
drops, then BadAccess, then IllegalOp, then BadLength. -/
def Obligations.FaultPriority : Prop :=
  ∀ s t : State, step s = .next t →
    let c := s.hostNow
    let op := (c.cmd.extractLsb' 16 4).toNat
    (c.rst = true → t.toBlock = resetKeepingLatches t) ∧
    t.fault =
      if c.rst then 0
      else if s.fault ≠ 0 then s.fault
      else if 0 < c.strobes ∧ (s.busy = true ∨ 1 < c.strobes) then 3
      else if c.cmdValid = true ∧ 9 < op then 1
      else if c.cmdValid = true ∧ op ∈ [3, 4, 9] ∧ 32 < (c.cmd.extractLsb' 0 8).toNat then 2
      else 0

/-- A faulted block never acts on a command or a host write again without a reset (60_exceptions.md R205): if it is not
busy, whatever the host presents, for any number of cycles, every register keeps its value and nothing goes on the bus;
if a frame is in flight, the step is the one with no action in it; the first fault's code stays in every case. -/
def Obligations.AFaultedBlockIsQuiescent : Prop :=
  ∀ s : State, s.fault ≠ 0 →
    (∀ k : Nat, s.busy = false → (∀ c ∈ s.host, c.rst = false) →
      ∃ t : State, run (k + 1) s = .next t ∧ t.trace = s.trace ∧ t.slave = s.slave ∧
        t.toBlock = { s.toBlock with done := false }) ∧
    (s.busy = true → s.hostNow.rst = false →
      step s = step { s with host := s.hostNow.withoutAction :: s.host.tail }) ∧
    ∀ t : State, step s = .next t → s.hostNow.rst = false → t.fault = s.fault

/-- Only reset clears `FAULT` (70_reset_and_hazards.md R230), in every state and whatever is in flight. -/
def Obligations.OnlyResetClearsAFault : Prop :=
  ∀ s t : State, step s = .next t → s.fault ≠ 0 → t.fault ≠ s.fault → s.hostNow.rst = true ∧ t.fault = 0

/-! ### Reset -/

/-- The reset values of 10_state.md R43, in the state after reset and after a cycle with `rst` = 1; the model starts with
an empty trace. -/
def Obligations.ResetValues : Prop :=
  State.reset.trace = [] ∧ ∀ t : State, (t = State.reset ∨ ∃ s, s.hostNow.rst = true ∧ step s = .next t) →
    (∀ (i : Nat) (h : i < 32), t.pb[i] = 0x00) ∧ t.tp.seconds = 0 ∧ t.tp.sequence = 0 ∧ t.rdata = 0x00 ∧
    t.status = 0x00 ∧ t.ok = false ∧ t.busy = false ∧ t.fault = 0 ∧ t.done = false ∧ t.csn = true ∧ t.sck = false ∧
    t.mosi = false

/-- A reset completes from every state, cuts a frame in flight with one `CsnHigh` and no further exchange, ignores what
the host presents in the same cycle, and does not reset the slave (70_reset_and_hazards.md R230, R232, R233). Nothing is
said of the sequencer latches, which R43 calls dead. That the slave's script is as it was even in the middle of an exchange
is the reading of log 7 and 15, and that the reset of an idle block leaves the trace alone is that of log 15. -/
def Obligations.ResetBeatsEverything : Prop :=
  ∀ s : State, s.hostNow.rst = true →
    ∃ t : State, step s = .next t ∧ t.toBlock = resetKeepingLatches t ∧ t.slave = s.slave ∧
      t.trace = if s.busy = true then s.trace ++ [.csnHigh] else s.trace

/-! ### The host's ports -/

/-- The buffer port (10_state.md R38): alone in its cycle it writes one byte; presented to a faulted block it is dropped.
Any other write at the wrong time is `OverlapRaisesBadAccess`. -/
def Obligations.BufferPortWritesOneByte : Prop :=
  ∀ s : State, s.hostNow.rst = false → s.hostNow.pbWe = true → s.hostNow.cmdValid = false → s.hostNow.tpWe = false →
    s.busy = false → ∃ t : State, step s = .next t ∧ t.trace = s.trace ∧
      (s.fault ≠ 0 → t.toBlock = { s.toBlock with done := false }) ∧
      (s.fault = 0 → t.toBlock = { s.toBlock with pb := t.pb, done := false } ∧
        ∀ (i : Nat) (h : i < 32), t.pb[i] = if i = s.hostNow.pbAddr.toNat then s.hostNow.pbWdata else s.pb[i])

/-- The TimePacket port (10_state.md R39): alone in its cycle it writes both fields together; presented to a faulted block
it is dropped. -/
def Obligations.TimePacketPortWritesBothFields : Prop :=
  ∀ s : State, s.hostNow.rst = false → s.hostNow.tpWe = true → s.hostNow.cmdValid = false → s.hostNow.pbWe = false →
    s.busy = false → ∃ t : State, step s = .next t ∧ t.trace = s.trace ∧
      (s.fault ≠ 0 → t.toBlock = { s.toBlock with done := false }) ∧
      (s.fault = 0 → t.toBlock = { s.toBlock with
        tp := { seconds := s.hostNow.tpWseconds, sequence := s.hostNow.tpWsequence }, done := false })

/-- The result ports (10_state.md R37, R38, R39): `busy`, `done`, `fault`, the TimePacket and the pins show their registers
in every cycle; the others show theirs when `BUSY` = 0. -/
def Obligations.ResultPortsShowTheRegisters : Prop :=
  ∀ (s : State) (a : BitVec 5),
    let o := s.outputs a
    o.busy = s.busy ∧ o.done = s.done ∧ o.fault = s.fault ∧ o.tpSeconds = s.tp.seconds ∧
    o.tpSequence = s.tp.sequence ∧ o.csn = s.csn ∧ o.sck = s.sck ∧ o.mosi = s.mosi ∧
    (s.busy = false → o.ok = s.ok ∧ o.rdata = s.rdata ∧ o.status = s.status ∧ o.rxDr = s.status.getLsbD 6 ∧
      o.txDs = s.status.getLsbD 5 ∧ o.maxRt = s.status.getLsbD 4 ∧ o.pbRdata = s.pb[a.toNat]'a.isLt)

/-- The completion strobe (10_state.md R41): after a step `done` is 1 iff in that cycle `BUSY` returned to 0 and not by a
reset, or an operation was accepted and completed in the accepting step. That the completing step sets it is the reading of
log 11. -/
def Obligations.DonePulsesExactlyOnCompletion : Prop :=
  ∀ s t : State, step s = .next t →
    (t.done = true ↔ s.hostNow.rst = false ∧
      ((s.busy = true ∧ t.busy = false) ∨
        (Ready s ∧ s.hostNow.commandAlone ∧ t.busy = false ∧ ∃ i, decode s.hostNow.cmd = .ok i)))

/-! ### The bus -/

/-- `Frame` (20_memory.md R55): the events are one bracket around 1 + n exchanges with the bytes in order, as many bytes
come back as go out, the script is used up by exactly that many, and of the block only the pins move. -/
def Obligations.AFrameIsOneBracket : Prop :=
  ∀ (s : State) (c : Byte) (out : List Byte),
    FrameSent s (s.frame c out).after c out (s.frame c out).s0 (s.frame c out).din ∧
    (s.frame c out).after.slave = s.slave.drop (1 + out.length) ∧
    (s.frame c out).after.toBlock = { s.toBlock with csn := true, sck := false, mosi := lastBitSent c out } ∧
    (s.frame c out).after.host = s.host ∧ (s.frame c out).after.clock = s.clock ∧
    (s.frame c out).after.grain = s.grain

/-- The invariant holds after reset. Its values for the dead latches are the model's choice of log 6. -/
def Obligations.InvariantHoldsAtReset : Prop := MachineInv State.reset

/-- Every step keeps the invariant, at every level, whatever the host presents and the slave returns: chip-select is low
exactly during a frame, the trace is a sequence of brackets of at most 33 exchanges, the sequencer keeps count
(20_memory.md R54, R55, R56, R61; 10_state.md R28, R33). The idle values of the latches are the choice of log 6. -/
def Obligations.EveryStepKeepsTheInvariant : Prop :=
  ∀ s t : State, MachineInv s → step s = .next t → MachineInv t

/-- From a state of the invariant the machine always goes on: no step ends in a stop of the model. -/
def Obligations.NoStepFromTheInvariantStops : Prop :=
  ∀ s : State, MachineInv s → ∃ t : State, step s = .next t

/-- The trace is a record: no step rewrites what it holds (20_memory.md R61). -/
def Obligations.TheTraceOnlyGrows : Prop :=
  ∀ s t : State, step s = .next t → ∃ events : List BusEvent, t.trace = s.trace ++ events

/-- While a frame goes on, no result register, no byte of `PB` and no field of `TP` changes (20_memory.md R69, R70: "the
result registers and `PB` take their new values at the last step"). -/
def Obligations.NoResultBeforeTheFrameEnds : Prop :=
  ∀ s t : State, step s = .next t → s.busy = true → t.busy = true →
    t.pb = s.pb ∧ t.tp = s.tp ∧ t.rdata = s.rdata ∧ t.status = s.status ∧ t.ok = s.ok ∧ t.cur = s.cur ∧ t.done = false

/-- Nothing blocks for ever (70_reset_and_hazards.md R253): if the bus moves in every cycle and the host is silent, a
frame in flight is over within the steps of the longest one, with `BUSY` = 0, `CSN` high and `done` = 1. That the bus moves in
every cycle is a hypothesis on the input of log 5; the 17 steps of an exchange are those of log 12, and
that the last step leaves `done` = 1 is the reading of log 11. -/
def Obligations.EveryFrameEnds : Prop :=
  ∀ s : State, MachineInv s → s.busy = true → HostSilent s →
    ∃ (k : Nat) (t : State), k ≤ 17 * 33 + 1 ∧ run k s = .next t ∧ t.busy = false ∧ t.csn = true ∧ t.done = true

/-- The byte level agrees with the operation level (20_memory.md R70): a bus operation takes 3 + n steps, `BUSY` is 1
between the first and the last, and the state after the last is the one the operation performed whole gives, but for the
model's count of cycles. How the steps are counted is log 5; `done` = 1 after the last is log 11, the latches there are
those of log 6. -/
def Obligations.ByteLevelAgreesWithOperationLevel : Prop :=
  ∀ (s : State) (c : HostCycle) (i : Instr) (op : BusOp) (u : State),
    MachineInv s → Ready s → s.grain = .byte → s.host = [c] → c.commandAlone → decode c.cmd = .ok i →
    busOpOf i s.pb = some op → exec i s = .next u →
    (∀ k, k < 2 + op.out.length → ∃ t : State, run (k + 1) s = .next t ∧ t.busy = true) ∧
    run (3 + op.out.length) s = .next { u with host := [], clock := s.clock + (3 + op.out.length) }

/-- The bit level agrees with the operation level: 17 steps to an exchange, loading and 16 edges of `SCK`, and the same
state at the end (20_memory.md R53, R70). The count of 17 is the model's (log 12), and the 2 beside it are the accepting
step, which drives `CSN` low (log 5), and the last; `done` = 1 after the last is log 11, the latches there are those of
log 6. -/
def Obligations.BitLevelAgreesWithOperationLevel : Prop :=
  ∀ (s : State) (c : HostCycle) (i : Instr) (op : BusOp) (u : State),
    MachineInv s → Ready s → s.grain = .bit → s.host = [c] → c.commandAlone → decode c.cmd = .ok i →
    busOpOf i s.pb = some op → exec i s = .next u →
    run (2 + 17 * (1 + op.out.length)) s =
      .next { u with host := [], clock := s.clock + (2 + 17 * (1 + op.out.length)) }

/-- One exchange at the bit level (20_memory.md R52, R53): at the j-th rising edge of `SCK` bit 7 - j of the byte sent is
on `MOSI`, `SCK` falls after each, and after the eighth falling edge the byte received is the slave's, its first bit
the most significant, while `MOSI` keeps bit 0. The numbers of steps are those of log 12. -/
def Obligations.BitsGoMostSignificantFirst : Prop :=
  ∀ (s : State) (op : BusOp) (m : Byte), MachineInv s → s.busy = true → s.grain = .bit → s.shifting = false → HostSilent s →
    s.inFlight = some op →
    (s.ph = .command ∧ m = op.cmd ∨ s.ph = .data ∧ op.out[s.idx.toNat]? = some m) →
    (∀ j, j < 8 → ∃ t u : State,
      run (2 + 2 * j) s = .next t ∧ t.sck = true ∧ t.mosi = m.getLsbD (7 - j) ∧ t.trace = s.trace ∧
      run (3 + 2 * j) s = .next u ∧ u.sck = false) ∧
    ∃ (b : Byte) (t : State), SlaveGives s [b] ∧ run 17 s = .next t ∧ t.trace = s.trace ++ [.x m b] ∧
      t.mosi = m.getLsbD 0 ∧ t.slave = s.slave.tail
end

