-- ==== Sys2Proof/Laws/Codec.lean ====
section
/-! SUPPORT. The codec byte by byte, and the two halves of a 16-bit value. -/

namespace Sys2Proof.Machine

/-- Joining the two halves of a 16-bit value gives it back. -/
theorem halves_append (x : BitVec 16) : x.extractLsb' 8 8 ++ x.extractLsb' 0 8 = x := by
  apply BitVec.eq_of_toNat_eq
  have hx := x.isLt
  simp only [BitVec.toNat_append, BitVec.extractLsb'_toNat, Nat.shiftLeft_eq, Nat.shiftRight_eq_div_pow,
    Nat.mul_comm _ (2 ^ 8)]
  rw [← Nat.two_pow_add_eq_or_of_lt (Nat.mod_lt _ (by decide))]
  omega

/-- The high half of two joined bytes. -/
theorem append_high (x y : Byte) : (x ++ y).extractLsb' 8 8 = x := by
  apply BitVec.eq_of_toNat_eq
  have hx := x.isLt
  simp only [BitVec.toNat_append, BitVec.extractLsb'_toNat, Nat.shiftLeft_eq, Nat.shiftRight_eq_div_pow,
    Nat.mul_comm _ (2 ^ 8)]
  rw [← Nat.two_pow_add_eq_or_of_lt y.isLt]
  have hy := y.isLt
  omega

/-- The low half of two joined bytes. -/
theorem append_low (x y : Byte) : (x ++ y).extractLsb' 0 8 = y := by
  apply BitVec.eq_of_toNat_eq
  have hy := y.isLt
  simp only [BitVec.toNat_append, BitVec.extractLsb'_toNat, Nat.shiftLeft_eq, Nat.shiftRight_zero,
    Nat.mul_comm _ (2 ^ 8)]
  rw [← Nat.two_pow_add_eq_or_of_lt y.isLt]
  omega

theorem encodePacket_getElem_zero (p : TimePacket) : (encodePacket p)[0] = p.seconds.extractLsb' 8 8 := by
  simp only [encodePacket, Vector.getElem_ofFn]

theorem encodePacket_getElem_one (p : TimePacket) : (encodePacket p)[1] = p.seconds.extractLsb' 0 8 := by
  simp only [encodePacket, Vector.getElem_ofFn]

theorem encodePacket_getElem_two (p : TimePacket) : (encodePacket p)[2] = p.sequence := by
  simp only [encodePacket, Vector.getElem_ofFn]

theorem encodePacket_getElem_padding (p : TimePacket) (i : Nat) (h : i + 3 < 32) : (encodePacket p)[i + 3] = 0 := by
  simp only [encodePacket, Vector.getElem_ofFn]

end Sys2Proof.Machine
end

