-- ==== Sys2Proof/Laws/Decode.lean ====
section
/-! SUPPORT. The fields of a packed word, the decoder by operation code, and what the decoder can answer. -/

namespace Sys2Proof

theorem opField_pack (op : BitVec 4) (a d : Byte) : opField (pack op a d) = op := by
  ext i hi
  simp only [opField, pack, BitVec.getElem_extractLsb', BitVec.getLsbD_append]
  rw [if_neg (by omega), if_neg (by omega)]
  simp only [show 16 + i - 8 - 8 = i by omega]
  exact (BitVec.getElem_eq_testBit_toNat ..).symm ▸ rfl

theorem aField_pack (op : BitVec 4) (a d : Byte) : aField (pack op a d) = a := by
  ext i hi
  simp only [aField, pack, BitVec.getElem_extractLsb', BitVec.getLsbD_append]
  rw [if_neg (by omega), if_pos (by omega)]
  simp only [show 8 + i - 8 = i by omega]
  exact (BitVec.getElem_eq_testBit_toNat ..).symm ▸ rfl

theorem dField_pack (op : BitVec 4) (a d : Byte) : dField (pack op a d) = d := by
  ext i hi
  simp only [dField, pack, BitVec.getElem_extractLsb', BitVec.getLsbD_append]
  rw [if_pos (by omega)]
  simp only [Nat.zero_add]
  exact (BitVec.getElem_eq_testBit_toNat ..).symm ▸ rfl

/-- A packed word as a number: the three fields at their places (30_encoding.md R80). -/
theorem pack_toNat (op : BitVec 4) (a d : Byte) :
    (pack op a d).toNat = op.toNat * 2 ^ 16 + a.toNat * 2 ^ 8 + d.toNat := by
  simp only [pack, BitVec.toNat_append, Nat.shiftLeft_eq, Nat.mul_comm _ (2 ^ 8)]
  rw [← Nat.two_pow_add_eq_or_of_lt a.isLt, ← Nat.two_pow_add_eq_or_of_lt d.isLt]
  omega

/-! The decoder by operation code (30_encoding.md R82, R95). -/

theorem decode_stat {w : CmdWord} (h : (opField w).toNat = 0) : decode w = .ok .stat := by
  simp only [decode, h]

theorem decode_rreg {w : CmdWord} (h : (opField w).toNat = 1) : decode w = .ok (.rreg (aField w)) := by
  simp only [decode, h]

theorem decode_wreg {w : CmdWord} (h : (opField w).toNat = 2) : decode w = .ok (.wreg (aField w) (dField w)) := by
  simp only [decode, h]

theorem decode_rpay {w : CmdWord} (h : (opField w).toNat = 3) : decode w = checkLength (dField w) (.rpay (dField w)) := by
  simp only [decode, h]

theorem decode_wpay {w : CmdWord} (h : (opField w).toNat = 4) : decode w = checkLength (dField w) (.wpay (dField w)) := by
  simp only [decode, h]

theorem decode_flrx {w : CmdWord} (h : (opField w).toNat = 5) : decode w = .ok .flrx := by
  simp only [decode, h]

theorem decode_fltx {w : CmdWord} (h : (opField w).toNat = 6) : decode w = .ok .fltx := by
  simp only [decode, h]

theorem decode_enc {w : CmdWord} (h : (opField w).toNat = 7) : decode w = .ok .enc := by
  simp only [decode, h]

theorem decode_dec {w : CmdWord} (h : (opField w).toNat = 8) : decode w = .ok .dec := by
  simp only [decode, h]

theorem decode_wregm {w : CmdWord} (h : (opField w).toNat = 9) : decode w = checkLength (dField w) (.wregm (aField w) (dField w)) := by
  simp only [decode, h]

theorem decode_illegalOp {w : CmdWord} (h : 9 < (opField w).toNat) : decode w = .error .illegalOp := by
  unfold decode
  split <;> first | rfl | omega

theorem lengthOk_iff (n : Byte) : lengthOk n = true ↔ n.toNat ≤ 32 := by simp [lengthOk]

theorem checkLength_eq_ok {n : Byte} {i j : Instr} : checkLength n i = .ok j ↔ n.toNat ≤ 32 ∧ i = j := by
  unfold checkLength
  split <;> simp_all [lengthOk_iff]

theorem checkLength_eq_error {n : Byte} {i : Instr} {e : DecodeError} :
    checkLength n i = .error e ↔ 32 < n.toNat ∧ e = .badLength := by
  have := lengthOk_iff n
  unfold checkLength
  constructor
  · intro h
    split at h <;> simp_all
  · rintro ⟨h, rfl⟩
    rw [if_neg (by rw [this]; omega)]

/-- What a decoded operation can be, with the operation code it came from and its length in range. -/
theorem decode_ok_cases {w : CmdWord} {i : Instr} (h : decode w = .ok i) :
    ((opField w).toNat = 0 ∧ i = .stat) ∨
    ((opField w).toNat = 1 ∧ i = .rreg (aField w)) ∨
    ((opField w).toNat = 2 ∧ i = .wreg (aField w) (dField w)) ∨
    ((opField w).toNat = 3 ∧ i = .rpay (dField w) ∧ (dField w).toNat ≤ 32) ∨
    ((opField w).toNat = 4 ∧ i = .wpay (dField w) ∧ (dField w).toNat ≤ 32) ∨
    ((opField w).toNat = 5 ∧ i = .flrx) ∨
    ((opField w).toNat = 6 ∧ i = .fltx) ∨
    ((opField w).toNat = 7 ∧ i = .enc) ∨
    ((opField w).toNat = 8 ∧ i = .dec) ∨
    ((opField w).toNat = 9 ∧ i = .wregm (aField w) (dField w) ∧ (dField w).toNat ≤ 32) := by
  unfold decode at h
  split at h <;> rename_i hk
  case h_4 => rw [checkLength_eq_ok] at h; obtain ⟨hn, rfl⟩ := h; simp [hk, hn]
  case h_5 => rw [checkLength_eq_ok] at h; obtain ⟨hn, rfl⟩ := h; simp [hk, hn]
  case h_10 => rw [checkLength_eq_ok] at h; obtain ⟨hn, rfl⟩ := h; simp [hk, hn]
  all_goals cases h
  all_goals simp [hk]

/-- Why a word is refused. -/
theorem decode_error_cases {w : CmdWord} {e : DecodeError} (h : decode w = .error e) :
    (9 < (opField w).toNat ∧ e = .illegalOp) ∨
    (((opField w).toNat = 3 ∨ (opField w).toNat = 4 ∨ (opField w).toNat = 9) ∧ 32 < (dField w).toNat ∧
      e = .badLength) := by
  unfold decode at h
  split at h <;> rename_i hk <;> simp only [checkLength_eq_error, Except.error.injEq, reduceCtorEq] at h
  · exact .inr ⟨.inl hk, h⟩
  · exact .inr ⟨.inr (.inl hk), h⟩
  · exact .inr ⟨.inr (.inr hk), h⟩
  · refine .inl ⟨?_, h.symm⟩
    by_contra hle
    have hlt : (opField w).toNat < 10 := by omega
    interval_cases (opField w).toNat <;> simp_all

/-- The decoder answers only well-formed operations. -/
theorem decode_wellFormed {w : CmdWord} {i : Instr} (h : decode w = .ok i) : i.wellFormed = true := by
  have := decode_ok_cases h
  rcases this with ⟨-, rfl⟩ | ⟨-, rfl⟩ | ⟨-, rfl⟩ | ⟨-, rfl, hn⟩ | ⟨-, rfl, hn⟩ | ⟨-, rfl⟩ | ⟨-, rfl⟩ | ⟨-, rfl⟩ |
    ⟨-, rfl⟩ | ⟨-, rfl, hn⟩ <;> first | rfl | exact (lengthOk_iff _).mpr hn

end Sys2Proof
end

