-- ==== Sys2Proof/Laws/State.lean ====
section
/-! SUPPORT. One lemma per field per named update of the state, each by rfl: no later proof unfolds a record update. -/

namespace Sys2Proof.Machine

variable (s : State)

/-! ### `State.raise` -/

@[simp] theorem State.raise_pb (f : BlockFault) : (s.raise f).pb = s.pb := rfl
@[simp] theorem State.raise_tp (f : BlockFault) : (s.raise f).tp = s.tp := rfl
@[simp] theorem State.raise_rdata (f : BlockFault) : (s.raise f).rdata = s.rdata := rfl
@[simp] theorem State.raise_status (f : BlockFault) : (s.raise f).status = s.status := rfl
@[simp] theorem State.raise_ok (f : BlockFault) : (s.raise f).ok = s.ok := rfl
@[simp] theorem State.raise_busy (f : BlockFault) : (s.raise f).busy = s.busy := rfl
@[simp] theorem State.raise_fault (f : BlockFault) : (s.raise f).fault = f.code := rfl
@[simp] theorem State.raise_done (f : BlockFault) : (s.raise f).done = s.done := rfl
@[simp] theorem State.raise_csn (f : BlockFault) : (s.raise f).csn = s.csn := rfl
@[simp] theorem State.raise_sck (f : BlockFault) : (s.raise f).sck = s.sck := rfl
@[simp] theorem State.raise_mosi (f : BlockFault) : (s.raise f).mosi = s.mosi := rfl
@[simp] theorem State.raise_cur (f : BlockFault) : (s.raise f).cur = s.cur := rfl
@[simp] theorem State.raise_idx (f : BlockFault) : (s.raise f).idx = s.idx := rfl
@[simp] theorem State.raise_ph (f : BlockFault) : (s.raise f).ph = s.ph := rfl
@[simp] theorem State.raise_s0 (f : BlockFault) : (s.raise f).s0 = s.s0 := rfl
@[simp] theorem State.raise_din (f : BlockFault) : (s.raise f).din = s.din := rfl
@[simp] theorem State.raise_shift (f : BlockFault) : (s.raise f).shift = s.shift := rfl
@[simp] theorem State.raise_bitCount (f : BlockFault) : (s.raise f).bitCount = s.bitCount := rfl
@[simp] theorem State.raise_shifting (f : BlockFault) : (s.raise f).shifting = s.shifting := rfl
@[simp] theorem State.raise_host (f : BlockFault) : (s.raise f).host = s.host := rfl
@[simp] theorem State.raise_slave (f : BlockFault) : (s.raise f).slave = s.slave := rfl
@[simp] theorem State.raise_trace (f : BlockFault) : (s.raise f).trace = s.trace := rfl
@[simp] theorem State.raise_clock (f : BlockFault) : (s.raise f).clock = s.clock := rfl
@[simp] theorem State.raise_grain (f : BlockFault) : (s.raise f).grain = s.grain := rfl

/-! ### `State.csnLow` -/

@[simp] theorem State.csnLow_pb : s.csnLow.pb = s.pb := rfl
@[simp] theorem State.csnLow_tp : s.csnLow.tp = s.tp := rfl
@[simp] theorem State.csnLow_rdata : s.csnLow.rdata = s.rdata := rfl
@[simp] theorem State.csnLow_status : s.csnLow.status = s.status := rfl
@[simp] theorem State.csnLow_ok : s.csnLow.ok = s.ok := rfl
@[simp] theorem State.csnLow_busy : s.csnLow.busy = s.busy := rfl
@[simp] theorem State.csnLow_fault : s.csnLow.fault = s.fault := rfl
@[simp] theorem State.csnLow_done : s.csnLow.done = s.done := rfl
@[simp] theorem State.csnLow_csn : s.csnLow.csn = false := rfl
@[simp] theorem State.csnLow_sck : s.csnLow.sck = s.sck := rfl
@[simp] theorem State.csnLow_mosi : s.csnLow.mosi = s.mosi := rfl
@[simp] theorem State.csnLow_cur : s.csnLow.cur = s.cur := rfl
@[simp] theorem State.csnLow_idx : s.csnLow.idx = s.idx := rfl
@[simp] theorem State.csnLow_ph : s.csnLow.ph = s.ph := rfl
@[simp] theorem State.csnLow_s0 : s.csnLow.s0 = s.s0 := rfl
@[simp] theorem State.csnLow_din : s.csnLow.din = s.din := rfl
@[simp] theorem State.csnLow_shift : s.csnLow.shift = s.shift := rfl
@[simp] theorem State.csnLow_bitCount : s.csnLow.bitCount = s.bitCount := rfl
@[simp] theorem State.csnLow_shifting : s.csnLow.shifting = s.shifting := rfl
@[simp] theorem State.csnLow_host : s.csnLow.host = s.host := rfl
@[simp] theorem State.csnLow_slave : s.csnLow.slave = s.slave := rfl
@[simp] theorem State.csnLow_trace : s.csnLow.trace = s.trace ++ [.csnLow] := rfl
@[simp] theorem State.csnLow_clock : s.csnLow.clock = s.clock := rfl
@[simp] theorem State.csnLow_grain : s.csnLow.grain = s.grain := rfl

/-! ### `State.csnHigh` -/

@[simp] theorem State.csnHigh_pb : s.csnHigh.pb = s.pb := rfl
@[simp] theorem State.csnHigh_tp : s.csnHigh.tp = s.tp := rfl
@[simp] theorem State.csnHigh_rdata : s.csnHigh.rdata = s.rdata := rfl
@[simp] theorem State.csnHigh_status : s.csnHigh.status = s.status := rfl
@[simp] theorem State.csnHigh_ok : s.csnHigh.ok = s.ok := rfl
@[simp] theorem State.csnHigh_busy : s.csnHigh.busy = s.busy := rfl
@[simp] theorem State.csnHigh_fault : s.csnHigh.fault = s.fault := rfl
@[simp] theorem State.csnHigh_done : s.csnHigh.done = s.done := rfl
@[simp] theorem State.csnHigh_csn : s.csnHigh.csn = true := rfl
@[simp] theorem State.csnHigh_sck : s.csnHigh.sck = s.sck := rfl
@[simp] theorem State.csnHigh_mosi : s.csnHigh.mosi = s.mosi := rfl
@[simp] theorem State.csnHigh_cur : s.csnHigh.cur = s.cur := rfl
@[simp] theorem State.csnHigh_idx : s.csnHigh.idx = s.idx := rfl
@[simp] theorem State.csnHigh_ph : s.csnHigh.ph = s.ph := rfl
@[simp] theorem State.csnHigh_s0 : s.csnHigh.s0 = s.s0 := rfl
@[simp] theorem State.csnHigh_din : s.csnHigh.din = s.din := rfl
@[simp] theorem State.csnHigh_shift : s.csnHigh.shift = s.shift := rfl
@[simp] theorem State.csnHigh_bitCount : s.csnHigh.bitCount = s.bitCount := rfl
@[simp] theorem State.csnHigh_shifting : s.csnHigh.shifting = s.shifting := rfl
@[simp] theorem State.csnHigh_host : s.csnHigh.host = s.host := rfl
@[simp] theorem State.csnHigh_slave : s.csnHigh.slave = s.slave := rfl
@[simp] theorem State.csnHigh_trace : s.csnHigh.trace = s.trace ++ [.csnHigh] := rfl
@[simp] theorem State.csnHigh_clock : s.csnHigh.clock = s.clock := rfl
@[simp] theorem State.csnHigh_grain : s.csnHigh.grain = s.grain := rfl

/-! ### `State.exchanged` -/

@[simp] theorem State.exchanged_pb (m b : Byte) : (s.exchanged m b).pb = s.pb := rfl
@[simp] theorem State.exchanged_tp (m b : Byte) : (s.exchanged m b).tp = s.tp := rfl
@[simp] theorem State.exchanged_rdata (m b : Byte) : (s.exchanged m b).rdata = s.rdata := rfl
@[simp] theorem State.exchanged_status (m b : Byte) : (s.exchanged m b).status = s.status := rfl
@[simp] theorem State.exchanged_ok (m b : Byte) : (s.exchanged m b).ok = s.ok := rfl
@[simp] theorem State.exchanged_busy (m b : Byte) : (s.exchanged m b).busy = s.busy := rfl
@[simp] theorem State.exchanged_fault (m b : Byte) : (s.exchanged m b).fault = s.fault := rfl
@[simp] theorem State.exchanged_done (m b : Byte) : (s.exchanged m b).done = s.done := rfl
@[simp] theorem State.exchanged_csn (m b : Byte) : (s.exchanged m b).csn = s.csn := rfl
@[simp] theorem State.exchanged_sck (m b : Byte) : (s.exchanged m b).sck = false := rfl
@[simp] theorem State.exchanged_mosi (m b : Byte) : (s.exchanged m b).mosi = m.getLsbD 0 := rfl
@[simp] theorem State.exchanged_cur (m b : Byte) : (s.exchanged m b).cur = s.cur := rfl
@[simp] theorem State.exchanged_idx (m b : Byte) : (s.exchanged m b).idx = s.idx := rfl
@[simp] theorem State.exchanged_ph (m b : Byte) : (s.exchanged m b).ph = s.ph := rfl
@[simp] theorem State.exchanged_s0 (m b : Byte) : (s.exchanged m b).s0 = s.s0 := rfl
@[simp] theorem State.exchanged_din (m b : Byte) : (s.exchanged m b).din = s.din := rfl
@[simp] theorem State.exchanged_shift (m b : Byte) : (s.exchanged m b).shift = s.shift := rfl
@[simp] theorem State.exchanged_bitCount (m b : Byte) : (s.exchanged m b).bitCount = s.bitCount := rfl
@[simp] theorem State.exchanged_shifting (m b : Byte) : (s.exchanged m b).shifting = s.shifting := rfl
@[simp] theorem State.exchanged_host (m b : Byte) : (s.exchanged m b).host = s.host := rfl
@[simp] theorem State.exchanged_slave (m b : Byte) : (s.exchanged m b).slave = s.slave.tail := rfl
@[simp] theorem State.exchanged_trace (m b : Byte) : (s.exchanged m b).trace = s.trace ++ [.x m b] := rfl
@[simp] theorem State.exchanged_clock (m b : Byte) : (s.exchanged m b).clock = s.clock := rfl
@[simp] theorem State.exchanged_grain (m b : Byte) : (s.exchanged m b).grain = s.grain := rfl

/-! ### `State.complete` -/

@[simp] theorem State.complete_pb : s.complete.pb = s.pb := rfl
@[simp] theorem State.complete_tp : s.complete.tp = s.tp := rfl
@[simp] theorem State.complete_rdata : s.complete.rdata = s.rdata := rfl
@[simp] theorem State.complete_status : s.complete.status = s.status := rfl
@[simp] theorem State.complete_ok : s.complete.ok = s.ok := rfl
@[simp] theorem State.complete_busy : s.complete.busy = s.busy := rfl
@[simp] theorem State.complete_fault : s.complete.fault = s.fault := rfl
@[simp] theorem State.complete_done : s.complete.done = true := rfl
@[simp] theorem State.complete_csn : s.complete.csn = s.csn := rfl
@[simp] theorem State.complete_sck : s.complete.sck = s.sck := rfl
@[simp] theorem State.complete_mosi : s.complete.mosi = s.mosi := rfl
@[simp] theorem State.complete_cur : s.complete.cur = s.cur := rfl
@[simp] theorem State.complete_idx : s.complete.idx = s.idx := rfl
@[simp] theorem State.complete_ph : s.complete.ph = s.ph := rfl
@[simp] theorem State.complete_s0 : s.complete.s0 = s.s0 := rfl
@[simp] theorem State.complete_din : s.complete.din = s.din := rfl
@[simp] theorem State.complete_shift : s.complete.shift = s.shift := rfl
@[simp] theorem State.complete_bitCount : s.complete.bitCount = s.bitCount := rfl
@[simp] theorem State.complete_shifting : s.complete.shifting = s.shifting := rfl
@[simp] theorem State.complete_host : s.complete.host = s.host := rfl
@[simp] theorem State.complete_slave : s.complete.slave = s.slave := rfl
@[simp] theorem State.complete_trace : s.complete.trace = s.trace := rfl
@[simp] theorem State.complete_clock : s.complete.clock = s.clock := rfl
@[simp] theorem State.complete_grain : s.complete.grain = s.grain := rfl

/-! ### `State.writePb` -/

@[simp] theorem State.writePb_pb (i : BitVec 5) (v : Byte) : (s.writePb i v).pb = s.pb.write i v := rfl
@[simp] theorem State.writePb_tp (i : BitVec 5) (v : Byte) : (s.writePb i v).tp = s.tp := rfl
@[simp] theorem State.writePb_rdata (i : BitVec 5) (v : Byte) : (s.writePb i v).rdata = s.rdata := rfl
@[simp] theorem State.writePb_status (i : BitVec 5) (v : Byte) : (s.writePb i v).status = s.status := rfl
@[simp] theorem State.writePb_ok (i : BitVec 5) (v : Byte) : (s.writePb i v).ok = s.ok := rfl
@[simp] theorem State.writePb_busy (i : BitVec 5) (v : Byte) : (s.writePb i v).busy = s.busy := rfl
@[simp] theorem State.writePb_fault (i : BitVec 5) (v : Byte) : (s.writePb i v).fault = s.fault := rfl
@[simp] theorem State.writePb_done (i : BitVec 5) (v : Byte) : (s.writePb i v).done = s.done := rfl
@[simp] theorem State.writePb_csn (i : BitVec 5) (v : Byte) : (s.writePb i v).csn = s.csn := rfl
@[simp] theorem State.writePb_sck (i : BitVec 5) (v : Byte) : (s.writePb i v).sck = s.sck := rfl
@[simp] theorem State.writePb_mosi (i : BitVec 5) (v : Byte) : (s.writePb i v).mosi = s.mosi := rfl
@[simp] theorem State.writePb_cur (i : BitVec 5) (v : Byte) : (s.writePb i v).cur = s.cur := rfl
@[simp] theorem State.writePb_idx (i : BitVec 5) (v : Byte) : (s.writePb i v).idx = s.idx := rfl
@[simp] theorem State.writePb_ph (i : BitVec 5) (v : Byte) : (s.writePb i v).ph = s.ph := rfl
@[simp] theorem State.writePb_s0 (i : BitVec 5) (v : Byte) : (s.writePb i v).s0 = s.s0 := rfl
@[simp] theorem State.writePb_din (i : BitVec 5) (v : Byte) : (s.writePb i v).din = s.din := rfl
@[simp] theorem State.writePb_shift (i : BitVec 5) (v : Byte) : (s.writePb i v).shift = s.shift := rfl
@[simp] theorem State.writePb_bitCount (i : BitVec 5) (v : Byte) : (s.writePb i v).bitCount = s.bitCount := rfl
@[simp] theorem State.writePb_shifting (i : BitVec 5) (v : Byte) : (s.writePb i v).shifting = s.shifting := rfl
@[simp] theorem State.writePb_host (i : BitVec 5) (v : Byte) : (s.writePb i v).host = s.host := rfl
@[simp] theorem State.writePb_slave (i : BitVec 5) (v : Byte) : (s.writePb i v).slave = s.slave := rfl
@[simp] theorem State.writePb_trace (i : BitVec 5) (v : Byte) : (s.writePb i v).trace = s.trace := rfl
@[simp] theorem State.writePb_clock (i : BitVec 5) (v : Byte) : (s.writePb i v).clock = s.clock := rfl
@[simp] theorem State.writePb_grain (i : BitVec 5) (v : Byte) : (s.writePb i v).grain = s.grain := rfl

/-! ### `State.writeTp` -/

@[simp] theorem State.writeTp_pb (x : BitVec 16) (y : BitVec 8) : (s.writeTp x y).pb = s.pb := rfl
@[simp] theorem State.writeTp_tp (x : BitVec 16) (y : BitVec 8) : (s.writeTp x y).tp = { seconds := x, sequence := y } := rfl
@[simp] theorem State.writeTp_rdata (x : BitVec 16) (y : BitVec 8) : (s.writeTp x y).rdata = s.rdata := rfl
@[simp] theorem State.writeTp_status (x : BitVec 16) (y : BitVec 8) : (s.writeTp x y).status = s.status := rfl
@[simp] theorem State.writeTp_ok (x : BitVec 16) (y : BitVec 8) : (s.writeTp x y).ok = s.ok := rfl
@[simp] theorem State.writeTp_busy (x : BitVec 16) (y : BitVec 8) : (s.writeTp x y).busy = s.busy := rfl
@[simp] theorem State.writeTp_fault (x : BitVec 16) (y : BitVec 8) : (s.writeTp x y).fault = s.fault := rfl
@[simp] theorem State.writeTp_done (x : BitVec 16) (y : BitVec 8) : (s.writeTp x y).done = s.done := rfl
@[simp] theorem State.writeTp_csn (x : BitVec 16) (y : BitVec 8) : (s.writeTp x y).csn = s.csn := rfl
@[simp] theorem State.writeTp_sck (x : BitVec 16) (y : BitVec 8) : (s.writeTp x y).sck = s.sck := rfl
@[simp] theorem State.writeTp_mosi (x : BitVec 16) (y : BitVec 8) : (s.writeTp x y).mosi = s.mosi := rfl
@[simp] theorem State.writeTp_cur (x : BitVec 16) (y : BitVec 8) : (s.writeTp x y).cur = s.cur := rfl
@[simp] theorem State.writeTp_idx (x : BitVec 16) (y : BitVec 8) : (s.writeTp x y).idx = s.idx := rfl
@[simp] theorem State.writeTp_ph (x : BitVec 16) (y : BitVec 8) : (s.writeTp x y).ph = s.ph := rfl
@[simp] theorem State.writeTp_s0 (x : BitVec 16) (y : BitVec 8) : (s.writeTp x y).s0 = s.s0 := rfl
@[simp] theorem State.writeTp_din (x : BitVec 16) (y : BitVec 8) : (s.writeTp x y).din = s.din := rfl
@[simp] theorem State.writeTp_shift (x : BitVec 16) (y : BitVec 8) : (s.writeTp x y).shift = s.shift := rfl
@[simp] theorem State.writeTp_bitCount (x : BitVec 16) (y : BitVec 8) : (s.writeTp x y).bitCount = s.bitCount := rfl
@[simp] theorem State.writeTp_shifting (x : BitVec 16) (y : BitVec 8) : (s.writeTp x y).shifting = s.shifting := rfl
@[simp] theorem State.writeTp_host (x : BitVec 16) (y : BitVec 8) : (s.writeTp x y).host = s.host := rfl
@[simp] theorem State.writeTp_slave (x : BitVec 16) (y : BitVec 8) : (s.writeTp x y).slave = s.slave := rfl
@[simp] theorem State.writeTp_trace (x : BitVec 16) (y : BitVec 8) : (s.writeTp x y).trace = s.trace := rfl
@[simp] theorem State.writeTp_clock (x : BitVec 16) (y : BitVec 8) : (s.writeTp x y).clock = s.clock := rfl
@[simp] theorem State.writeTp_grain (x : BitVec 16) (y : BitVec 8) : (s.writeTp x y).grain = s.grain := rfl

/-! ### `State.beginCycle` -/

@[simp] theorem State.beginCycle_pb : s.beginCycle.pb = s.pb := rfl
@[simp] theorem State.beginCycle_tp : s.beginCycle.tp = s.tp := rfl
@[simp] theorem State.beginCycle_rdata : s.beginCycle.rdata = s.rdata := rfl
@[simp] theorem State.beginCycle_status : s.beginCycle.status = s.status := rfl
@[simp] theorem State.beginCycle_ok : s.beginCycle.ok = s.ok := rfl
@[simp] theorem State.beginCycle_busy : s.beginCycle.busy = s.busy := rfl
@[simp] theorem State.beginCycle_fault : s.beginCycle.fault = s.fault := rfl
@[simp] theorem State.beginCycle_done : s.beginCycle.done = false := rfl
@[simp] theorem State.beginCycle_csn : s.beginCycle.csn = s.csn := rfl
@[simp] theorem State.beginCycle_sck : s.beginCycle.sck = s.sck := rfl
@[simp] theorem State.beginCycle_mosi : s.beginCycle.mosi = s.mosi := rfl
@[simp] theorem State.beginCycle_cur : s.beginCycle.cur = s.cur := rfl
@[simp] theorem State.beginCycle_idx : s.beginCycle.idx = s.idx := rfl
@[simp] theorem State.beginCycle_ph : s.beginCycle.ph = s.ph := rfl
@[simp] theorem State.beginCycle_s0 : s.beginCycle.s0 = s.s0 := rfl
@[simp] theorem State.beginCycle_din : s.beginCycle.din = s.din := rfl
@[simp] theorem State.beginCycle_shift : s.beginCycle.shift = s.shift := rfl
@[simp] theorem State.beginCycle_bitCount : s.beginCycle.bitCount = s.bitCount := rfl
@[simp] theorem State.beginCycle_shifting : s.beginCycle.shifting = s.shifting := rfl
@[simp] theorem State.beginCycle_host : s.beginCycle.host = s.host.tail := rfl
@[simp] theorem State.beginCycle_slave : s.beginCycle.slave = s.slave := rfl
@[simp] theorem State.beginCycle_trace : s.beginCycle.trace = s.trace := rfl
@[simp] theorem State.beginCycle_clock : s.beginCycle.clock = s.clock + 1 := rfl
@[simp] theorem State.beginCycle_grain : s.beginCycle.grain = s.grain := rfl

/-! ### `State.idleLatches` -/

@[simp] theorem State.idleLatches_pb : s.idleLatches.pb = s.pb := rfl
@[simp] theorem State.idleLatches_tp : s.idleLatches.tp = s.tp := rfl
@[simp] theorem State.idleLatches_rdata : s.idleLatches.rdata = s.rdata := rfl
@[simp] theorem State.idleLatches_status : s.idleLatches.status = s.status := rfl
@[simp] theorem State.idleLatches_ok : s.idleLatches.ok = s.ok := rfl
@[simp] theorem State.idleLatches_busy : s.idleLatches.busy = s.busy := rfl
@[simp] theorem State.idleLatches_fault : s.idleLatches.fault = s.fault := rfl
@[simp] theorem State.idleLatches_done : s.idleLatches.done = s.done := rfl
@[simp] theorem State.idleLatches_csn : s.idleLatches.csn = s.csn := rfl
@[simp] theorem State.idleLatches_sck : s.idleLatches.sck = s.sck := rfl
@[simp] theorem State.idleLatches_mosi : s.idleLatches.mosi = s.mosi := rfl
@[simp] theorem State.idleLatches_cur : s.idleLatches.cur = 0 := rfl
@[simp] theorem State.idleLatches_idx : s.idleLatches.idx = 0 := rfl
@[simp] theorem State.idleLatches_ph : s.idleLatches.ph = .select := rfl
@[simp] theorem State.idleLatches_s0 : s.idleLatches.s0 = 0 := rfl
@[simp] theorem State.idleLatches_din : s.idleLatches.din = [] := rfl
@[simp] theorem State.idleLatches_shift : s.idleLatches.shift = 0 := rfl
@[simp] theorem State.idleLatches_bitCount : s.idleLatches.bitCount = 0 := rfl
@[simp] theorem State.idleLatches_shifting : s.idleLatches.shifting = false := rfl
@[simp] theorem State.idleLatches_host : s.idleLatches.host = s.host := rfl
@[simp] theorem State.idleLatches_slave : s.idleLatches.slave = s.slave := rfl
@[simp] theorem State.idleLatches_trace : s.idleLatches.trace = s.trace := rfl
@[simp] theorem State.idleLatches_clock : s.idleLatches.clock = s.clock := rfl
@[simp] theorem State.idleLatches_grain : s.idleLatches.grain = s.grain := rfl

/-! ### `State.selectTick` -/

@[simp] theorem State.selectTick_pb : s.selectTick.pb = s.pb := rfl
@[simp] theorem State.selectTick_tp : s.selectTick.tp = s.tp := rfl
@[simp] theorem State.selectTick_rdata : s.selectTick.rdata = s.rdata := rfl
@[simp] theorem State.selectTick_status : s.selectTick.status = s.status := rfl
@[simp] theorem State.selectTick_ok : s.selectTick.ok = s.ok := rfl
@[simp] theorem State.selectTick_busy : s.selectTick.busy = s.busy := rfl
@[simp] theorem State.selectTick_fault : s.selectTick.fault = s.fault := rfl
@[simp] theorem State.selectTick_done : s.selectTick.done = s.done := rfl
@[simp] theorem State.selectTick_csn : s.selectTick.csn = false := rfl
@[simp] theorem State.selectTick_sck : s.selectTick.sck = s.sck := rfl
@[simp] theorem State.selectTick_mosi : s.selectTick.mosi = s.mosi := rfl
@[simp] theorem State.selectTick_cur : s.selectTick.cur = s.cur := rfl
@[simp] theorem State.selectTick_idx : s.selectTick.idx = s.idx := rfl
@[simp] theorem State.selectTick_ph : s.selectTick.ph = .command := rfl
@[simp] theorem State.selectTick_s0 : s.selectTick.s0 = s.s0 := rfl
@[simp] theorem State.selectTick_din : s.selectTick.din = s.din := rfl
@[simp] theorem State.selectTick_shift : s.selectTick.shift = s.shift := rfl
@[simp] theorem State.selectTick_bitCount : s.selectTick.bitCount = s.bitCount := rfl
@[simp] theorem State.selectTick_shifting : s.selectTick.shifting = s.shifting := rfl
@[simp] theorem State.selectTick_host : s.selectTick.host = s.host := rfl
@[simp] theorem State.selectTick_slave : s.selectTick.slave = s.slave := rfl
@[simp] theorem State.selectTick_trace : s.selectTick.trace = s.trace ++ [.csnLow] := rfl
@[simp] theorem State.selectTick_clock : s.selectTick.clock = s.clock := rfl
@[simp] theorem State.selectTick_grain : s.selectTick.grain = s.grain := rfl

/-! ### `State.resetBlock` -/

@[simp] theorem State.resetBlock_toBlock : s.resetBlock.toBlock = Block.reset := rfl
@[simp] theorem State.resetBlock_host : s.resetBlock.host = s.host := rfl
@[simp] theorem State.resetBlock_slave : s.resetBlock.slave = s.slave := rfl
@[simp] theorem State.resetBlock_clock : s.resetBlock.clock = s.clock := rfl
@[simp] theorem State.resetBlock_grain : s.resetBlock.grain = s.grain := rfl
theorem State.resetBlock_trace :
    s.resetBlock.trace = if s.busy then s.trace ++ [.csnHigh] else s.trace := rfl

/-- Two states with the same block and the same surroundings are the same state. -/
theorem State.eq_of_parts {s t : State} (hb : s.toBlock = t.toBlock) (hh : s.host = t.host) (hs : s.slave = t.slave)
    (ht : s.trace = t.trace) (hc : s.clock = t.clock) (hg : s.grain = t.grain) : s = t := by
  cases s; cases t; simp_all

end Sys2Proof.Machine
end

