-- ==== Sys2Proof/Laws/Ops.lean ====
section
/-! SUPPORT. The shared operations, each said once: acceptance, the data exchanges, the frame, a bus operation performed
whole, the buffer. -/

namespace Sys2Proof.Machine

variable (s : State)

/-! ### Acceptance -/

@[simp] theorem State.accept_of_ready {s : State} (hf : s.fault = 0) (hb : s.busy = false) (act : State → State) :
    s.accept act = .next (act s) := by
  simp [State.accept, hf, hb]

theorem State.accept_of_fault {s : State} (hf : s.fault ≠ 0) (act : State → State) : s.accept act = .next s := by
  rw [State.accept, if_pos hf]

theorem State.accept_of_busy {s : State} (hf : s.fault = 0) (hb : s.busy = true) (act : State → State) :
    s.accept act = .next (s.raise .badAccess) := by
  simp [State.accept, hf, hb]

/-- What an accepted action can answer: dropped, refused with BadAccess, or taken. -/
theorem State.accept_cases {s t : State} {act : State → State} (h : s.accept act = .next t) :
    (s.fault ≠ 0 ∧ t = s) ∨ (s.fault = 0 ∧ s.busy = true ∧ t = s.raise .badAccess) ∨
    (s.fault = 0 ∧ s.busy = false ∧ t = act s) := by
  simp only [State.accept, Host.Outcome.next.injEq] at h
  split at h
  · exact .inl ⟨‹_›, h.symm⟩
  · have hf : s.fault = 0 := by simp_all
    split at h
    · exact .inr (.inl ⟨hf, ‹_›, h.symm⟩)
    · exact .inr (.inr ⟨hf, by simp_all, h.symm⟩)

/-! ### The slave's bytes -/

theorem slaveGives_nil : SlaveGives s [] := by simp [SlaveGives]

/-- The byte of the next exchange, followed by bytes the slave gives after it, are bytes the slave gives. -/
theorem slaveGives_cons {s : State} {m b : Byte} {s' : State} {bytes : List Byte} (hb : b = s.answer m)
    (hs' : s'.slave = s.slave.tail) (h : SlaveGives s' bytes) : SlaveGives s (b :: bytes) := by
  unfold SlaveGives at *
  rw [hs'] at h
  cases hs : s.slave with
  | nil => simp
  | cons x xs =>
    simp only [hs, List.tail_cons] at h
    simp [State.answer, hs, hb, h]

/-! ### The data exchanges -/

/-- Any property of a state that every exchange keeps is kept by all the data exchanges of a frame. -/
theorem xferAll_keeps {β : Type} (f : State → β) (hf : ∀ (s : State) (m b : Byte), f (s.exchanged m b) = f s)
    (out : List Byte) : f (s.xferAll out).2 = f s := by
  induction out generalizing s with
  | nil => rfl
  | cons m rest ih => simp [State.xferAll, State.xfer, ih, hf]

@[simp] theorem xferAll_host (out : List Byte) : (s.xferAll out).2.host = s.host :=
  xferAll_keeps s (·.host) (fun _ _ _ => rfl) out

@[simp] theorem xferAll_clock (out : List Byte) : (s.xferAll out).2.clock = s.clock :=
  xferAll_keeps s (·.clock) (fun _ _ _ => rfl) out

@[simp] theorem xferAll_grain (out : List Byte) : (s.xferAll out).2.grain = s.grain :=
  xferAll_keeps s (·.grain) (fun _ _ _ => rfl) out

@[simp] theorem xferAll_length (out : List Byte) : (s.xferAll out).1.length = out.length := by
  induction out generalizing s with
  | nil => rfl
  | cons m rest ih => simp [State.xferAll, ih]

/-- The data exchanges add one event each to the trace, bytes in order (20_memory.md R55, R67). -/
theorem xferAll_trace (out : List Byte) :
    (s.xferAll out).2.trace = s.trace ++ List.zipWith BusEvent.x out (s.xferAll out).1 := by
  induction out generalizing s with
  | nil => simp [State.xferAll]
  | cons m rest ih => simp [State.xferAll, State.xfer, ih]

@[simp] theorem xferAll_slave (out : List Byte) : (s.xferAll out).2.slave = s.slave.drop out.length := by
  induction out generalizing s with
  | nil => rfl
  | cons m rest ih => simp [State.xferAll, State.xfer, ih]

theorem xferAll_slaveGives (out : List Byte) : SlaveGives s (s.xferAll out).1 := by
  induction out generalizing s with
  | nil => exact slaveGives_nil s
  | cons m rest ih => exact slaveGives_cons rfl rfl (ih _)

/-- Of the block the data exchanges move `SCK` and `MOSI` only. -/
theorem xferAll_toBlock (out : List Byte) (hsck : s.sck = false) :
    (s.xferAll out).2.toBlock = { s.toBlock with mosi := (out.getLast?.map (·.getLsbD 0)).getD s.mosi } := by
  induction out generalizing s with
  | nil => rfl
  | cons m rest ih =>
    rw [State.xferAll, ih _ rfl]
    cases hr : rest.getLast? with
    | none => simp_all [State.xfer, State.exchanged]
    | some x => simp [State.xfer, State.exchanged, List.getLast?_cons, hr, hsck]

/-! ### The frame -/

section frame

variable (c : Byte) (out : List Byte)

theorem frame_s0 : (s.frame c out).s0 = s.csnLow.answer c := rfl

@[simp] theorem frame_din_length : (s.frame c out).din.length = out.length := xferAll_length ..

@[simp] theorem frame_host : (s.frame c out).after.host = s.host := by simp [State.frame, State.xfer]

@[simp] theorem frame_clock : (s.frame c out).after.clock = s.clock := by simp [State.frame, State.xfer]

@[simp] theorem frame_grain : (s.frame c out).after.grain = s.grain := by simp [State.frame, State.xfer]

@[simp] theorem frame_slave : (s.frame c out).after.slave = s.slave.drop (out.length + 1) := by
  simp [State.frame, State.xfer]

theorem frame_trace :
    (s.frame c out).after.trace = s.trace ++ bracket c (s.frame c out).s0 out (s.frame c out).din := by
  simp [State.frame, bracket, xferAll_trace, State.xfer]

theorem frame_slaveGives : SlaveGives s ((s.frame c out).s0 :: (s.frame c out).din) :=
  slaveGives_cons (s := s.csnLow) rfl rfl (xferAll_slaveGives _ _)

theorem frame_toBlock :
    (s.frame c out).after.toBlock =
      { s.toBlock with csn := true, sck := false, mosi := lastBitSent c out } := by
  have h : (s.frame c out).after.toBlock =
      { ((s.csnLow.xfer c).2.xferAll out).2.toBlock with csn := true } := rfl
  rw [h, xferAll_toBlock _ _ rfl]
  cases hl : out.getLast? with
  | none => simp_all [State.xfer, State.exchanged, State.csnLow, lastBitSent]
  | some x => simp [State.xfer, State.exchanged, State.csnLow, lastBitSent, List.getLastD_eq_getLast?, hl]

end frame

/-! ### A bus operation performed whole -/

/-- What an operation writes from its frame: registers of the block, and nothing around it. -/
structure BusOp.Commits (op : BusOp) : Prop where
  host : ∀ b l s, (op.commit b l s).host = s.host
  slave : ∀ b l s, (op.commit b l s).slave = s.slave
  trace : ∀ b l s, (op.commit b l s).trace = s.trace
  clock : ∀ b l s, (op.commit b l s).clock = s.clock
  grain : ∀ b l s, (op.commit b l s).grain = s.grain
  block : ∀ b l s, (op.commit b l s).toBlock = { s.toBlock with
    pb := (op.commit b l s).pb, rdata := (op.commit b l s).rdata, status := (op.commit b l s).status
    ok := (op.commit b l s).ok }

/-- Every bus operation writes `PB`, `RDATA`, `STATUS` or `OK` and nothing else (10_state.md R26). -/
theorem busOpOf_commits {i : Instr} {pb : Payload} {op : BusOp} (h : busOpOf i pb = some op) : op.Commits := by
  cases i <;> simp only [busOpOf, Option.some.injEq, reduceCtorEq] at h <;> subst h <;> constructor <;> intros <;>
    simp only [statOp, rregOp, wregOp, wregmOp, rpayOp, wpayOp, flrxOp, fltxOp]

/-- A bus operation performed whole: one frame, then what it writes, then the completion strobe. -/
theorem performBus_eq (op : BusOp) :
    s.performBus op =
      (op.commit (s.frame op.cmd op.out).s0 (s.frame op.cmd op.out).din (s.frame op.cmd op.out).after).complete := rfl

/-- A bus operation performed whole puts exactly its frame on the bus. -/
theorem performBus_frameSent {op : BusOp} (hop : op.Commits) :
    FrameSent s (s.performBus op) op.cmd op.out (s.frame op.cmd op.out).s0 (s.frame op.cmd op.out).din :=
  ⟨frame_din_length .., frame_slaveGives .., by
    rw [performBus_eq, State.complete_trace, hop.trace, frame_trace]⟩

@[simp] theorem performSized_true (op : BusOp) : s.performSized true op = s.performBus op := rfl

@[simp] theorem performSized_false (op : BusOp) : s.performSized false op = s.raise .badLength := rfl

/-! ### The buffer -/

theorem Payload.write_getElem (pb : Payload) (a : BitVec 5) (v : Byte) (i : Nat) (h : i < 32) :
    (pb.write a v)[i] = if i = a.toNat then v else pb[i] := by
  simp only [Payload.write, Vector.getElem_set, eq_comm]

theorem Payload.load_getElem (pb : Payload) (bytes : List Byte) (i : Nat) (h : i < 32) :
    (pb.load bytes)[i] = bytes.getD i pb[i] := by
  simp [Payload.load]

@[simp] theorem Payload.firstBytes_length (pb : Payload) (n : Nat) : (pb.firstBytes n).length = min n 32 := by
  simp [Payload.firstBytes]

/-- Loading fills a prefix and keeps the rest (41_payload_fifo.md R130). -/
theorem Payload.load_toList (pb : Payload) (bytes : List Byte) (h : bytes.length ≤ 32) :
    (pb.load bytes).toList = bytes ++ pb.toList.drop bytes.length := by
  apply List.ext_getElem
  · simp; omega
  · intro i h1 h2
    simp only [Vector.getElem_toList]
    have hi : i < 32 := by simpa using h1
    rw [Payload.load_getElem pb bytes i hi]
    by_cases hb : i < bytes.length
    · rw [List.getElem_append_left hb]; simp [hb]
    · rw [List.getElem_append_right (by omega)]
      simp only [List.getElem_drop, Vector.getElem_toList, List.getD_eq_getElem?_getD]
      rw [List.getElem?_eq_none (by omega)]
      simp only [Option.getD_none]
      congr 1
      omega

end Sys2Proof.Machine
end

