-- ==== Sys2Proof/Laws/Exec.lean ====
section
/-! SUPPORT. Every operation's meaning in one form: accepted, then a bus operation performed whole, BadLength, or one of
the two codec operations. -/

namespace Sys2Proof.Machine

/-- What an accepted operation does. -/
def State.perform (s : State) (i : Instr) : State :=
  match i with
  | .stat => s.performBus statOp
  | .rreg a => s.performBus (rregOp a)
  | .wreg a v => s.performBus (wregOp a v)
  | .rpay n => s.performSized (lengthOk n) (rpayOp n)
  | .wpay n => s.performSized (lengthOk n) (wpayOp n s.pb)
  | .flrx => s.performBus flrxOp
  | .fltx => s.performBus fltxOp
  | .enc => { s with pb := encodePacket s.tp, ok := true }.complete
  | .dec => { s with tp := decodePacket s.pb, ok := true }.complete
  | .wregm a n => s.performSized (lengthOk n) (wregmOp a n s.pb)

theorem exec_eq_accept (i : Instr) (s : State) : exec i s = s.accept fun s => s.perform i := by
  cases i <;> simp only [exec, execStat, execRreg, execWreg, execRpay, execWpay, execFlrx, execFltx, execEnc, execDec,
    execWregm, State.perform]

theorem exec_of_ready {s : State} (hf : s.fault = 0) (hb : s.busy = false) (i : Instr) :
    exec i s = .next (s.perform i) := by
  rw [exec_eq_accept, State.accept_of_ready hf hb]

theorem perform_of_busOp {s : State} {i : Instr} {op : BusOp} (hw : i.wellFormed = true)
    (h : busOpOf i s.pb = some op) : s.perform i = s.performBus op := by
  cases i <;> simp only [busOpOf, Option.some.injEq, reduceCtorEq] at h <;> subst h <;>
    simp only [Instr.wellFormed] at hw <;> simp only [State.perform, hw, performSized_true]

theorem perform_of_length {s : State} {i : Instr} (hw : i.wellFormed = false) :
    s.perform i = s.raise .badLength := by
  cases i <;> simp only [Instr.wellFormed, Bool.true_eq_false] at hw <;>
    simp only [State.perform, hw, performSized_false]

/-- What an accepted operation can be: a bus operation, a bad length, ENC or DEC. -/
theorem perform_cases (s : State) (i : Instr) :
    (i.wellFormed = false ∧ s.perform i = s.raise .badLength) ∨
    (i.wellFormed = true ∧ ∃ op, busOpOf i s.pb = some op ∧ s.perform i = s.performBus op) ∨
    (i = .enc ∧ s.perform i = { s with pb := encodePacket s.tp, ok := true }.complete) ∨
    (i = .dec ∧ s.perform i = { s with tp := decodePacket s.pb, ok := true }.complete) := by
  by_cases hw : i.wellFormed = true
  · cases hop : busOpOf i s.pb with
    | some op => exact .inr (.inl ⟨hw, op, rfl, perform_of_busOp hw hop⟩)
    | none =>
      cases i <;> simp only [busOpOf, reduceCtorEq] at hop
      · exact .inr (.inr (.inl ⟨rfl, by simp only [State.perform]⟩))
      · exact .inr (.inr (.inr ⟨rfl, by simp only [State.perform]⟩))
  · exact .inl ⟨by simpa using hw, perform_of_length (by simpa using hw)⟩

/-- What `exec` can answer: the state itself (dropped), BadAccess, or the operation performed. -/
theorem exec_cases {i : Instr} {s t : State} (h : exec i s = .next t) :
    (s.fault ≠ 0 ∧ t = s) ∨ (s.fault = 0 ∧ s.busy = true ∧ t = s.raise .badAccess) ∨
    (s.fault = 0 ∧ s.busy = false ∧ t = s.perform i) :=
  State.accept_cases (exec_eq_accept i s ▸ h)

/-- The block's registers after a bus operation performed whole, from what it commits. -/
theorem performBus_toBlock (s : State) {op : BusOp} (hop : op.Commits) :
    (s.performBus op).toBlock = { s.toBlock with
      pb := (s.performBus op).pb, rdata := (s.performBus op).rdata, status := (s.performBus op).status
      ok := (s.performBus op).ok, done := true, csn := true, sck := false, mosi := lastBitSent op.cmd op.out } := by
  have h : (s.performBus op).toBlock = { (op.commit (s.frame op.cmd op.out).s0 (s.frame op.cmd op.out).din
      (s.frame op.cmd op.out).after).toBlock with done := true } := rfl
  rw [h, hop.block, frame_toBlock]

end Sys2Proof.Machine
end

