-- ==== Sys2Proof/Laws/PerInstr.lean ====
section
/-! SUPPORT. Per-instruction facts about the encoding: the operation code the canonical word carries. -/

namespace Sys2Proof.Laws.OpField

/-- The operation code of the table of 30_encoding.md R82. -/
def opCode : Instr → BitVec 4
  | .stat => 0x0
  | .rreg _ => 0x1
  | .wreg _ _ => 0x2
  | .rpay _ => 0x3
  | .wpay _ => 0x4
  | .flrx => 0x5
  | .fltx => 0x6
  | .enc => 0x7
  | .dec => 0x8
  | .wregm _ _ => 0x9

/-- The `OP` field of an operation's canonical word is its code. -/
def Statement (i : Instr) : Prop := opField (encode i) = opCode i

theorem stat : Statement .stat := opField_pack ..
theorem rreg (a : Byte) : Statement (.rreg a) := opField_pack ..
theorem wreg (a v : Byte) : Statement (.wreg a v) := opField_pack ..
theorem rpay (n : Byte) : Statement (.rpay n) := opField_pack ..
theorem wpay (n : Byte) : Statement (.wpay n) := opField_pack ..
theorem flrx : Statement .flrx := opField_pack ..
theorem fltx : Statement .fltx := opField_pack ..
theorem enc : Statement .enc := opField_pack ..
theorem dec : Statement .dec := opField_pack ..
theorem wregm (a n : Byte) : Statement (.wregm a n) := opField_pack ..

end Sys2Proof.Laws.OpField
end

