-- ==== Sys2Proof/Laws/Sequencer.lean ====
section
/-! SUPPORT. The sequencer's step, phase by phase and grain by grain. -/

namespace Sys2Proof.Machine

variable {s : State} {op : BusOp}

theorem tickOp_select (h : s.ph = .select) : s.tickOp op = s.selectTick := by
  simp only [State.tickOp, h]

theorem tickOp_command (h : s.ph = .command) : s.tickOp op = s.exchangeTick op.cmd (afterCommand op) := by
  simp only [State.tickOp, h]

theorem tickOp_data (h : s.ph = .data) : s.tickOp op = s.exchangeTick (nextDataByte op s) (afterData op) := by
  simp only [State.tickOp, h]

theorem tickOp_deselect (h : s.ph = .deselect) : s.tickOp op = s.finish op := by
  simp only [State.tickOp, h]

variable {m : Byte} {after : Byte → State → State}

/-- Above the bit level an exchange is one step. -/
theorem exchangeTick_whole (h : s.grain ≠ .bit) :
    s.exchangeTick m after = after (s.answer m) (s.exchanged m (s.answer m)) := by
  unfold State.exchangeTick
  cases hg : s.grain <;> simp_all [State.xfer]

theorem exchangeTick_bit (h : s.grain = .bit) : s.exchangeTick m after = s.bitTick m after := by
  simp only [State.exchangeTick, h]

theorem bitTick_load (h : s.shifting = false) : s.bitTick m after = s.loadShift m := by
  simp [State.bitTick, h]

theorem bitTick_rise (h : s.shifting = true) (hs : s.sck = false) : s.bitTick m after = s.riseSck m := by
  simp [State.bitTick, h, hs]

theorem bitTick_last (h : s.shifting = true) (hs : s.sck = true) (hb : s.bitCount = 0) :
    s.bitTick m after = after s.shift (s.lastFallSck m) := by
  simp [State.bitTick, h, hs, hb]

theorem bitTick_fall (h : s.shifting = true) (hs : s.sck = true) (hb : s.bitCount ≠ 0) :
    s.bitTick m after = s.fallSck := by
  simp only [State.bitTick, h, hs, Bool.not_true, Bool.false_eq_true, if_false, if_neg hb]

/-- What one step of an exchange at the bit level can be. -/
theorem bitTick_cases (s : State) (m : Byte) (after : Byte → State → State) :
    (s.shifting = false ∧ s.bitTick m after = s.loadShift m) ∨
    (s.shifting = true ∧ s.sck = false ∧ s.bitTick m after = s.riseSck m) ∨
    (s.shifting = true ∧ s.sck = true ∧ s.bitCount ≠ 0 ∧ s.bitTick m after = s.fallSck) ∨
    (s.shifting = true ∧ s.sck = true ∧ s.bitCount = 0 ∧ s.bitTick m after = after s.shift (s.lastFallSck m)) := by
  cases h : s.shifting
  · exact .inl ⟨rfl, bitTick_load h⟩
  · cases hs : s.sck
    · exact .inr (.inl ⟨rfl, rfl, bitTick_rise h hs⟩)
    · by_cases hb : s.bitCount = 0
      · exact .inr (.inr (.inr ⟨rfl, rfl, hb, bitTick_last h hs hb⟩))
      · exact .inr (.inr (.inl ⟨rfl, rfl, hb, bitTick_fall h hs hb⟩))

/-- What one step of an exchange can be, at any grain. -/
theorem exchangeTick_cases (s : State) (m : Byte) (after : Byte → State → State) :
    (s.grain ≠ .bit ∧ s.exchangeTick m after = after (s.answer m) (s.exchanged m (s.answer m))) ∨
    (s.grain = .bit ∧ s.shifting = false ∧ s.exchangeTick m after = s.loadShift m) ∨
    (s.grain = .bit ∧ s.shifting = true ∧ s.sck = false ∧ s.exchangeTick m after = s.riseSck m) ∨
    (s.grain = .bit ∧ s.shifting = true ∧ s.sck = true ∧ s.bitCount ≠ 0 ∧ s.exchangeTick m after = s.fallSck) ∨
    (s.grain = .bit ∧ s.shifting = true ∧ s.sck = true ∧ s.bitCount = 0 ∧
      s.exchangeTick m after = after s.shift (s.lastFallSck m)) := by
  by_cases hg : s.grain = .bit
  · right
    rw [exchangeTick_bit hg]
    simpa only [hg, true_and] using bitTick_cases s m after
  · exact .inl ⟨hg, exchangeTick_whole hg⟩

/-- What the sequencer's step can be, by phase. -/
theorem tickOp_cases (s : State) (op : BusOp) :
    (s.ph = .select ∧ s.tickOp op = s.selectTick) ∨
    (s.ph = .command ∧ s.tickOp op = s.exchangeTick op.cmd (afterCommand op)) ∨
    (s.ph = .data ∧ s.tickOp op = s.exchangeTick (nextDataByte op s) (afterData op)) ∨
    (s.ph = .deselect ∧ s.tickOp op = s.finish op) := by
  cases h : s.ph
  · exact .inl ⟨rfl, tickOp_select h⟩
  · exact .inr (.inl ⟨rfl, tickOp_command h⟩)
  · exact .inr (.inr (.inl ⟨rfl, tickOp_data h⟩))
  · exact .inr (.inr (.inr ⟨rfl, tickOp_deselect h⟩))

/-- What an operation writes does not depend on `FAULT` and does not touch it. -/
theorem commit_fault {i : Instr} {pb : Payload} (h : busOpOf i pb = some op) (f : BitVec 2) (b : Byte)
    (l : List Byte) (s : State) : op.commit b l { s with fault := f } = { op.commit b l s with fault := f } := by
  cases i <;> simp only [busOpOf, Option.some.injEq, reduceCtorEq] at h <;> subst h <;>
    simp only [statOp, rregOp, wregOp, wregmOp, rpayOp, wpayOp, flrxOp, fltxOp]

/-- A step of an exchange does not depend on `FAULT` and does not touch it, if what follows the exchange does not. -/
theorem exchangeTick_fault (f : BitVec 2) (s : State) (m : Byte) {after : Byte → State → State}
    (ha : ∀ b s, after b { s with fault := f } = { after b s with fault := f }) :
    State.exchangeTick { s with fault := f } m after = { s.exchangeTick m after with fault := f } := by
  rcases exchangeTick_cases s m after with
    ⟨h1, h⟩ | ⟨h1, h2, h⟩ | ⟨h1, h2, h3, h⟩ | ⟨h1, h2, h3, h4, h⟩ | ⟨h1, h2, h3, h4, h⟩ <;> rw [h]
  · rw [exchangeTick_whole (s := { s with fault := f }) h1]
    exact ha (s.answer m) (s.exchanged m (s.answer m))
  · rw [exchangeTick_bit (s := { s with fault := f }) h1, bitTick_load (s := { s with fault := f }) h2]; rfl
  · rw [exchangeTick_bit (s := { s with fault := f }) h1, bitTick_rise (s := { s with fault := f }) h2 h3]; rfl
  · rw [exchangeTick_bit (s := { s with fault := f }) h1, bitTick_fall (s := { s with fault := f }) h2 h3 h4]; rfl
  · rw [exchangeTick_bit (s := { s with fault := f }) h1, bitTick_last (s := { s with fault := f }) h2 h3 h4]
    exact ha s.shift (s.lastFallSck m)

/-- The sequencer's step does not depend on `FAULT` and does not touch it (60_exceptions.md R207). -/
theorem tickOp_fault {i : Instr} {pb : Payload} (h : busOpOf i pb = some op) (f : BitVec 2) (s : State) :
    State.tickOp { s with fault := f } op = { s.tickOp op with fault := f } := by
  rcases tickOp_cases s op with ⟨hp, h'⟩ | ⟨hp, h'⟩ | ⟨hp, h'⟩ | ⟨hp, h'⟩ <;> rw [h']
  · rw [tickOp_select (s := { s with fault := f }) hp]; rfl
  · rw [tickOp_command (s := { s with fault := f }) hp]
    exact exchangeTick_fault f s _ fun _ _ => rfl
  · rw [tickOp_data (s := { s with fault := f }) hp]
    exact exchangeTick_fault f s _ fun _ _ => rfl
  · rw [tickOp_deselect (s := { s with fault := f }) hp]
    have hf : State.finish { s with fault := f } op =
        { (op.commit s.s0 s.din { s.csnHigh with fault := f }).idleLatches with busy := false }.complete := rfl
    rw [hf, commit_fault h f s.s0 s.din s.csnHigh]; rfl

end Sys2Proof.Machine
end

