-- ==== Sys2Proof/Laws/Step.lean ====
section
/-! SUPPORT. What one step can do, said once: the cases of a clock cycle, of a host action, of a command, of the
sequencer's step. -/

namespace Sys2Proof.Machine

/-! ### Host actions -/

theorem HostCycle.strobes_eq_zero {c : HostCycle} :
    c.strobes = 0 ↔ c.cmdValid = false ∧ c.pbWe = false ∧ c.tpWe = false := by
  cases h1 : c.cmdValid <;> cases h2 : c.pbWe <;> cases h3 : c.tpWe <;> simp [HostCycle.strobes, h1, h2, h3]

theorem HostCycle.strobes_le_one {c : HostCycle} (h : ¬1 < c.strobes) :
    (c.cmdValid = true → c.pbWe = false ∧ c.tpWe = false) ∧ (c.pbWe = true → c.tpWe = false) := by
  cases h1 : c.cmdValid <;> cases h2 : c.pbWe <;> cases h3 : c.tpWe <;> simp_all [HostCycle.strobes]

theorem State.refuseAccess_cases (s : State) :
    (s.fault ≠ 0 ∧ s.refuseAccess = s) ∨ (s.fault = 0 ∧ s.refuseAccess = s.raise .badAccess) := by
  by_cases h : s.fault = 0
  · exact .inr ⟨h, by simp [State.refuseAccess, h]⟩
  · exact .inl ⟨h, by rw [State.refuseAccess, if_pos h]⟩

/-- What a command word presented alone can do (10_state.md R36 items 1, 2, 3, 4 and 5). -/
theorem command_cases {w : CmdWord} {s t : State} (h : command w s = .next t) :
    (∃ e, decode w = .error e ∧ s.accept (fun s => s.raise (faultOf e)) = .next t) ∨
    (∃ i, decode w = .ok i ∧ exec i s = .next t) ∨
    (∃ i op, decode w = .ok i ∧ s.grain ≠ .operation ∧ busOpOf i s.pb = some op ∧
      s.accept (fun s => s.start w) = .next t) := by
  unfold command at h
  split at h
  · exact .inl ⟨_, ‹_›, h⟩
  · rename_i i hi
    unfold perform at h
    split at h
    · exact .inr (.inl ⟨i, hi, h⟩)
    all_goals
      rename_i hg
      split at h
      · rename_i hop
        obtain ⟨op, hop⟩ := Option.isSome_iff_exists.mp hop
        exact .inr (.inr ⟨i, op, hi, by rw [hg]; decide, hop, h⟩)
      · exact .inr (.inl ⟨i, hi, h⟩)

/-- What the host's inputs can do to a block that is not busy. -/
theorem hostAction_cases {c : HostCycle} {s t : State} (h : hostAction c s = .next t) :
    (1 < c.strobes ∧ t = s.refuseAccess) ∨
    (c.cmdValid = true ∧ c.pbWe = false ∧ c.tpWe = false ∧ command c.cmd s = .next t) ∨
    (c.cmdValid = false ∧ c.pbWe = true ∧ c.tpWe = false ∧
      s.accept (fun s => s.writePb c.pbAddr c.pbWdata) = .next t) ∨
    (c.cmdValid = false ∧ c.pbWe = false ∧ c.tpWe = true ∧
      s.accept (fun s => s.writeTp c.tpWseconds c.tpWsequence) = .next t) ∨
    (c.strobes = 0 ∧ t = s) := by
  unfold hostAction at h
  split at h
  · exact .inl ⟨‹_›, by simpa using h.symm⟩
  · have hs := HostCycle.strobes_le_one ‹_›
    have h0 := c.strobes_eq_zero
    split at h
    · simp_all
    · split at h
      · simp_all
      · split at h <;> simp_all

/-! ### The sequencer -/

theorem State.tick_cases {s t : State} (h : s.tick = .next t) :
    ∃ op, s.inFlight = some op ∧ t = s.tickOp op := by
  unfold State.tick at h
  split at h
  · exact ⟨_, ‹_›, by simpa using h.symm⟩
  · simp at h

/-- The operation in flight is one of the ten, decoded from the latched word. -/
theorem State.inFlight_cases {s : State} {op : BusOp} (h : s.inFlight = some op) :
    ∃ i, decode s.cur = .ok i ∧ busOpOf i s.pb = some op := by
  unfold State.inFlight at h
  split at h
  · exact ⟨_, ‹_›, h⟩
  · simp at h

theorem State.inFlight_congr {s t : State} (hc : t.cur = s.cur) (hp : t.pb = s.pb) : t.inFlight = s.inFlight := by
  simp only [State.inFlight, hc, hp]

/-- A decoded bus operation sends at most 32 data bytes (20_memory.md R55, 60_exceptions.md R202). -/
theorem busOp_length_le {w : CmdWord} {i : Instr} {pb : Payload} {op : BusOp} (hi : decode w = .ok i)
    (h : busOpOf i pb = some op) : op.out.length ≤ 32 := by
  have hw := decode_wellFormed hi
  cases i <;> simp only [busOpOf, Option.some.injEq, reduceCtorEq] at h <;> subst h <;>
    simp only [Instr.wellFormed, lengthOk_iff] at hw <;>
    simp [statOp, rregOp, wregOp, wregmOp, rpayOp, wpayOp, flrxOp, fltxOp, dummyBytes, lengthOf, hw]

/-! ### One clock cycle -/

@[simp] theorem overlap_of_silent {c : HostCycle} {s : State} (h : c.strobes = 0) : overlap c s = s := by
  simp [overlap, h]

/-- An action that overlaps a frame moves `FAULT` and nothing else (60_exceptions.md R204, R207). -/
theorem overlap_eq (c : HostCycle) (s : State) :
    overlap c s = { s with fault := if 0 < c.strobes ∧ s.fault = 0 then 3 else s.fault } := by
  unfold overlap
  split
  · simp [*]
  · have : 0 < c.strobes := by omega
    rcases s.refuseAccess_cases with ⟨hf, h⟩ | ⟨hf, h⟩
    · rw [h, if_neg fun hc => hf hc.2]
    · rw [h, if_pos ⟨this, hf⟩]; rfl

theorem beginCycle_inFlight (s : State) : s.beginCycle.inFlight = s.inFlight := rfl

theorem overlap_inFlight (c : HostCycle) (s : State) : (overlap c s).inFlight = s.inFlight :=
  State.inFlight_congr (by rw [overlap_eq]) (by rw [overlap_eq])

/-- What one step can do: reset, the frame in flight standing still or moving on, or the host's action. -/
theorem step_cases {s t : State} (h : step s = .next t) :
    (s.hostNow.rst = true ∧ t = s.beginCycle.resetBlock) ∨
    (s.hostNow.rst = false ∧ s.busy = true ∧ s.hostNow.advance = false ∧ t = overlap s.hostNow s.beginCycle) ∨
    (s.hostNow.rst = false ∧ s.busy = true ∧ s.hostNow.advance = true ∧
      ∃ op, s.inFlight = some op ∧ t = (overlap s.hostNow s.beginCycle).tickOp op) ∨
    (s.hostNow.rst = false ∧ s.busy = false ∧ hostAction s.hostNow s.beginCycle = .next t) := by
  unfold step cycle at h
  by_cases hr : s.hostNow.rst = true
  · rw [if_pos hr] at h
    exact .inl ⟨hr, by simpa using h.symm⟩
  rw [if_neg hr] at h
  rw [Bool.not_eq_true] at hr
  by_cases hb : s.busy = true
  · rw [if_pos (show s.beginCycle.busy = true from hb)] at h
    by_cases ha : s.hostNow.advance = true
    · rw [if_pos ha] at h
      obtain ⟨op, ho, ht⟩ := State.tick_cases h
      rw [overlap_inFlight, beginCycle_inFlight] at ho
      exact .inr (.inr (.inl ⟨hr, hb, ha, op, ho, ht⟩))
    · rw [if_neg ha] at h
      exact .inr (.inl ⟨hr, hb, by simpa using ha, by simpa using h.symm⟩)
  · rw [if_neg (show ¬s.beginCycle.busy = true from hb)] at h
    exact .inr (.inr (.inr ⟨hr, by simpa using hb, h⟩))

/-- The step of a busy block whose bus moves. -/
theorem step_of_busy {s : State} (hr : s.hostNow.rst = false) (hb : s.busy = true) (ha : s.hostNow.advance = true) :
    step s = (overlap s.hostNow s.beginCycle).tick := by
  simp [step, cycle, hr, hb, ha]

/-- The step of a block that is not busy. -/
theorem step_of_idle {s : State} (hr : s.hostNow.rst = false) (hb : s.busy = false) :
    step s = hostAction s.hostNow s.beginCycle := by
  simp [step, cycle, hr, hb]

/-- The step of a block that is not busy, with a command word presented alone. -/
theorem step_of_command {s : State} (hc : s.hostNow.commandAlone) (hb : s.busy = false) :
    step s = command s.hostNow.cmd s.beginCycle := by
  obtain ⟨hr, hv, hp, ht⟩ := hc
  have : s.hostNow.strobes = 1 := by simp [HostCycle.strobes, hv, hp, ht]
  simp [step_of_idle hr hb, hostAction, this, hv]

theorem hostNow_of_silent {s : State} (h : HostSilent s) : s.hostNow = HostCycle.idle := by
  simp [State.hostNow, h]

/-! ### Runs -/

@[simp] theorem run_zero (s : State) : run 0 s = .next s := rfl

theorem run_succ (k : Nat) (s : State) :
    run (k + 1) s = match step s with
      | .next s' => run k s'
      | .fault r => .fault r
      | .refused r => .refused r := by
  have h : core.step s = step s := rfl
  simp only [run, Host.Core.run, h]
  cases step s <;> rfl

theorem run_succ_of_step {k : Nat} {s t : State} (h : step s = .next t) : run (k + 1) s = run k t := by
  simp only [run_succ, h]

/-- A run of `j + k` steps is a run of `j` followed by a run of `k`. -/
theorem run_add {j k : Nat} {s t : State} (h : run j s = .next t) : run (j + k) s = run k t := by
  induction j generalizing s with
  | zero => simp_all
  | succ j ih =>
    rw [Nat.add_right_comm, run_succ]
    rw [run_succ] at h
    split at h <;> simp_all

end Sys2Proof.Machine
end

