-- ==== Sys2Proof/Laws/Trace.lean ====
section
/-! SUPPORT. The shape of a trace, event by event and bracket by bracket. -/

namespace Sys2Proof.Machine

@[simp] theorem traceShape_nil : traceShape [] = .closed := rfl

theorem traceShape_append (t : List BusEvent) (e : BusEvent) : traceShape (t ++ [e]) = (traceShape t).next e := by
  simp [traceShape, List.foldl_append]

/-- Data exchanges inside a frame count up to at most 33. -/
theorem foldl_exchanges (out din : List Byte) (k : Nat) (hl : din.length = out.length) (hk : k + out.length ≤ 33) :
    (List.zipWith BusEvent.x out din).foldl TraceShape.next (.opened k) = .opened (k + out.length) := by
  induction out generalizing din k with
  | nil => simp
  | cons m rest ih =>
    cases din with
    | nil => simp at hl
    | cons b din =>
      simp only [List.length_cons] at hl hk
      simp only [List.zipWith_cons_cons, List.foldl_cons, TraceShape.next, if_pos (show k < 33 by omega)]
      rw [ih din (k + 1) (by omega) (by omega)]
      simp only [List.length_cons]
      congr 1
      omega

/-- A whole bracket leaves a closed trace closed. -/
theorem traceShape_bracket {t : List BusEvent} (ht : traceShape t = .closed) (c s0 : Byte) {out din : List Byte}
    (hl : din.length = out.length) (ho : out.length ≤ 32) : traceShape (t ++ bracket c s0 out din) = .closed := by
  unfold traceShape at *
  rw [List.foldl_append, ht, bracket]
  simp only [List.cons_append, List.foldl_cons, List.foldl_append, TraceShape.next, List.foldl_nil]
  rw [if_pos (by decide), foldl_exchanges out din 1 hl (by omega)]

end Sys2Proof.Machine
end

