-- ==== Sys2Proof/Tests/Slice0.lean ====
section
/-! SUPPORT. The model's own tests. Expected values are those of 30_encoding.md and 95_test_vectors.md (its tables V2 to
V14), never the model's own answers. At the end stand the witnesses: for every statement with hypotheses, a concrete
state and operands that meet them, clause by clause and at the boundary values. -/

namespace Sys2Proof.Tests

open Sys2Proof.Machine

/-! ### Well-formedness: the one check, refused at its first illegal value (60_exceptions.md R202) -/

theorem test_rpay_33_is_ill_formed : (Instr.rpay 33).wellFormed = false := by decide
theorem test_wpay_33_is_ill_formed : (Instr.wpay 33).wellFormed = false := by decide
theorem test_wregm_33_is_ill_formed : (Instr.wregm 0x0A 33).wellFormed = false := by decide
theorem test_length_32_is_well_formed :
    (Instr.rpay 32).wellFormed ∧ (Instr.wpay 32).wellFormed ∧ (Instr.wregm 0xFF 32).wellFormed := by decide
theorem test_operands_are_unrestricted : (Instr.rreg 0xFF).wellFormed ∧ (Instr.wreg 0xFF 0xFF).wellFormed := by decide

/-! ### Decoding: words written out from 30_encoding.md R80 and R82, most of them rows of V2 -/

theorem test_decode_stat : decode 0b0000_00000000_00000000#20 = .ok .stat := rfl
theorem test_decode_stat_ignores_fields : decode 0b0000_10101011_11001101#20 = .ok .stat := rfl
theorem test_decode_rreg : decode 0b0001_00100111_00000000#20 = .ok (.rreg 0x27) := rfl
theorem test_decode_wreg : decode 0b0010_00000101_01001100#20 = .ok (.wreg 0x05 0x4C) := rfl
theorem test_decode_rpay : decode 0b0011_11111111_00100000#20 = .ok (.rpay 32) := rfl
theorem test_decode_wpay : decode 0b0100_00000000_00100000#20 = .ok (.wpay 32) := rfl
theorem test_decode_flrx : decode 0b0101_00000000_00000000#20 = .ok .flrx := rfl
theorem test_decode_fltx : decode 0b0110_00000000_00000000#20 = .ok .fltx := rfl
theorem test_decode_enc : decode 0b0111_11111111_11111111#20 = .ok .enc := rfl
theorem test_decode_dec : decode 0b1000_00000000_00000000#20 = .ok .dec := rfl
theorem test_decode_wregm : decode 0b1001_00001010_00000101#20 = .ok (.wregm 0x0A 5) := rfl
theorem test_decode_length_33 :
    decode 0x30021 = .error .badLength ∧ decode 0x40021 = .error .badLength ∧ decode 0x90A21 = .error .badLength :=
  ⟨rfl, rfl, rfl⟩
theorem test_decode_illegal :
    decode 0xA0000 = .error .illegalOp ∧ decode 0xF0000 = .error .illegalOp ∧ decode 0xFFFFF = .error .illegalOp :=
  ⟨rfl, rfl, rfl⟩
theorem test_decode_table_word : decodeTableWord 24 0x2054C = some (.wreg 0x05 0x4C) := by decide
theorem test_no_word_above_bit_19 : decodeTableWord 24 0x100000 = none := by decide

/-! ### One operation from a small state -/

/-- The state a step answers. -/
def next : Outcome → State
  | .next t => t
  | .fault _ => State.reset
  | .refused _ => State.reset

/-- The reset state with a slave that answers the bytes of a script. -/
def answering (script : List Byte) : State := { State.reset with slave := script }

/-- The reset state with the first bytes of `PB` and a script. -/
def holding (bytes script : List Byte) : State :=
  { State.reset with pb := State.reset.pb.load bytes, slave := script }

/-- The bytes the master sent, in order. -/
def sent : List BusEvent → List Byte
  | [] => []
  | .x m _ :: rest => m :: sent rest
  | .csnLow :: rest => sent rest
  | .csnHigh :: rest => sent rest

-- V3, rows 4 and 3
theorem test_stat : (next (exec .stat (answering [0x2E]))).status = 0x2E ∧
    (next (exec .stat (answering [0x2E]))).ok = true := by decide
theorem test_stat_frame : (next (exec .stat (answering [0x40]))).trace =
    [.csnLow, .x Config.CMD_NOP 0x40, .csnHigh] := rfl
-- V4, rows 4 and 5
theorem test_rreg : (next (exec (.rreg 0x27) (answering [0x2E, 0x5A]))).rdata = 0x5A ∧
    (next (exec (.rreg 0x27) (answering [0x2E, 0x5A]))).ok = true ∧
    (next (exec (.rreg 0x27) (answering [0x2E, 0x5A]))).status = 0x00 := by decide
theorem test_rreg_sends : sent (next (exec (.rreg 0xFF) (answering [0xFF, 0x5A]))).trace =
    [0x1F, Config.DUMMY_BYTE] := rfl
-- V5, rows 9 and 2
theorem test_wreg_sends : sent (next (exec (.wreg 0xE7 0x01) (answering [0x0E, 0x00]))).trace = [0x27, 0x01] := by
  decide
theorem test_wreg_fails : (next (exec (.wreg 0x05 0x4C) (answering [0x2E, 0x00]))).ok = false ∧
    (next (exec (.wreg 0x05 0x4C) (answering [0x2E, 0x00]))).status = 0x2E ∧
    (next (exec (.wreg 0x05 0x4C) (answering [0x2E, 0x00]))).fault = 0 := by decide
-- V6, rows 5 and 2
theorem test_wregm_sends :
    sent (next (exec (.wregm 0x0A 6) (holding [0xE7, 0xE7, 0xE7, 0xE7, 0xE7] [0x0E, 0, 0, 0, 0, 0, 0]))).trace =
    [0x2A, 0xE7, 0xE7, 0xE7, 0xE7, 0xE7, 0x00] := by decide
theorem test_wregm_fails :
    (next (exec (.wregm 0x10 5) (holding [0xE7] [0x2E, 0, 0, 0, 0, 0]))).ok = false := by decide
-- V7, row 2, on a smaller buffer; V7, row 6
theorem test_rpay : (next (exec (.rpay 3) (holding [0xA0, 0xA1, 0xA2, 0xA3] [0x40, 0x12, 0x34, 0x56]))).pb =
    State.reset.pb.load [0x12, 0x34, 0x56, 0xA3] := by decide
theorem test_rpay_33 : (next (exec (.rpay 33) State.reset)).fault = 2 ∧
    (next (exec (.rpay 33) State.reset)).ok = false := by decide
-- V8, rows 3 and 4
theorem test_wpay_sends :
    sent (next (exec (.wpay 3) (holding [0x00, 0x3C, 0x05, 0xAA] [0x0E, 0, 0, 0]))).trace =
    [Config.CMD_W_TX_PAYLOAD, 0x00, 0x3C, 0x05] := rfl
theorem test_wpay_0 : sent (next (exec (.wpay 0) (answering [0x0E]))).trace = [Config.CMD_W_TX_PAYLOAD] := rfl
-- V9
theorem test_flrx : (next (exec .flrx (answering [0x0E]))).trace =
    [.csnLow, .x Config.CMD_FLUSH_RX 0x0E, .csnHigh] := rfl
theorem test_fltx : (next (exec .fltx (answering [0x2E]))).ok = true ∧
    (next (exec .fltx (answering [0x2E]))).status = 0x00 := by decide
theorem test_fltx_frame : (next (exec .fltx (answering [0x2E]))).trace =
    [.csnLow, .x Config.CMD_FLUSH_TX 0x2E, .csnHigh] := rfl
-- V10, rows 5 and 2, the padding dirty before
theorem test_encode : encodePacket { seconds := 0x1234, sequence := 0x56 } =
    State.reset.pb.load [0x12, 0x34, 0x56] := by decide
theorem test_enc : (next (exec .enc
    { holding [0xAA, 0xAA, 0xAA, 0xAA] [] with tp := { seconds := 60, sequence := 5 } })).pb =
    State.reset.pb.load [0x00, 0x3C, 0x05] := by decide
-- V11, rows 8 and 7
theorem test_dec : (next (exec .dec (holding [0x80, 0x00, 0x80, 0xFF] []))).tp =
    { seconds := 32768, sequence := 128 } := by decide
theorem test_dec_keeps_buffer : (next (exec .dec (holding [0x12, 0x34, 0x56, 0x78] []))).pb =
    State.reset.pb.load [0x12, 0x34, 0x56, 0x78] := by decide

/-! ### One clock cycle: V12, V14 -/

/-- The reset state in a cycle with the inputs `c`. -/
def facing (c : HostCycle) : State := { State.reset with host := [c] }

/-- An RPAY 1 in flight at the byte level, its command exchange next. -/
def inFlight : State :=
  { State.reset with
    busy := true, csn := false, cur := 0x30001, ph := .command, trace := [.csnLow], grain := .byte
    slave := [0x40, 0x12] }

theorem test_illegal_word : (next (step (facing (.command 0xA0000)))).fault = 1 := by decide
theorem test_busy_beats_illegal :
    (next (step { inFlight with host := [.command 0xF0000] })).fault = 3 := by decide
theorem test_two_actions : (next (step (facing { HostCycle.setPb 0 0xFF with tpWe := true, tpWseconds := 1 }))).fault = 3 ∧
    (next (step (facing { HostCycle.setPb 0 0xFF with tpWe := true, tpWseconds := 1 }))).pb[0] = 0x00 := by decide
theorem test_faulted_drops :
    (next (step { facing (.command 0xA0000) with fault := 2 })).fault = 2 := by decide
theorem test_reset_beats_all :
    next (step { facing { HostCycle.command 0xA0000 with rst := true } with fault := 3 }) =
      { State.reset with clock := 1 } := by decide
theorem test_reset_cuts_a_frame :
    (next (step { inFlight with host := [.reset] })).trace = [.csnLow, .csnHigh] ∧
    (next (step { inFlight with host := [.reset] })).done = false := by decide

-- 30_encoding.md R93; V3 row 7; P6 line 6
theorem test_fillPb : fillPb [0xE7, 0x01] = [.setPb 0 0xE7, .setPb 1 0x01] := by decide
theorem test_status_wires : ({ State.reset with status := 0xFF }.outputs 0).rxDr = true ∧
    ({ State.reset with status := 0x8F }.outputs 0).txDs = false := by decide
theorem test_setPb_31 : (next (step (facing (.setPb 31 0x99)))).pb[31] = 0x99 := by decide
theorem test_setTp : (next (step (facing (.setTp 4660 86)))).tp = { seconds := 4660, sequence := 86 } := by decide

/-! ### One exchange at the bit level: V13, `Xfer(0x27)` sends 0, 0, 1, 0, 0, 1, 1, 1 while 0x40 comes back -/

/-- The exchange of `m` begun, on a slave that answers `b`. -/
def exchanging (m b : Byte) : State := { answering [b] with grain := .bit }.loadShift m

/-- The shift register and the level of `MOSI` after some edge pairs. -/
def afterEdges (m : Byte) : Nat → State → State
  | 0, s => s
  | k + 1, s => afterEdges m k (s.riseSck m).fallSck

theorem test_bit_0_of_the_wire : (exchanging 0x27 0x40).mosi = false := by decide
theorem test_bit_2_of_the_wire : (afterEdges 0x27 2 (exchanging 0x27 0x40)).mosi = true := by decide
theorem test_byte_received : ((afterEdges 0x27 7 (exchanging 0x27 0x40)).riseSck 0x27).shift = 0x40 := by decide

/-! ### Witnesses for the hypotheses of the statements

The theorem `witness_<statement>` is the witness of the obligation of that name. -/

/-- A step or a run that ends in a next state. -/
def goesOn : Outcome → Bool
  | .next _ => true
  | .fault _ => false
  | .refused _ => false

theorem goesOn_next {o : Outcome} (h : goesOn o = true) : ∃ t, o = .next t := by
  cases o with
  | next t => exact ⟨t, rfl⟩
  | fault _ => cases h
  | refused _ => cases h

/-- A faulted block. -/
def faulted : State := { State.reset with fault := 2 }

/-- As `inFlight`, its data exchange next. -/
def inFlightData : State :=
  { inFlight with ph := .data, s0 := 0x40, trace := [.csnLow, .x Config.CMD_R_RX_PAYLOAD 0x40], slave := [0x12] }

theorem ready_reset : Ready State.reset := by decide

theorem inv_reset : MachineInv State.reset :=
  ⟨rfl, rfl, ⟨rfl, rfl, rfl, rfl, rfl, rfl, rfl, rfl⟩, rfl⟩

theorem inv_inFlight : MachineInv inFlight :=
  ⟨rfl, rfl, by decide, by decide, rpayOp 1, rfl, by decide, rfl, rfl, rfl⟩

theorem inv_inFlight_bit : MachineInv { inFlight with grain := .bit } :=
  ⟨rfl, rfl, by decide, by decide, rpayOp 1, rfl, by decide, rfl, rfl, rfl⟩

theorem inv_inFlightData_bit : MachineInv { inFlightData with grain := .bit } :=
  ⟨rfl, rfl, by decide, by decide, rpayOp 1, rfl, by decide, rfl, by decide, rfl⟩

theorem witness_DecodeOfEncodeIsTheInstruction :
    (Instr.rpay 32).wellFormed = true ∧ (Instr.wregm 0xFF 0).wellFormed = true := by decide

/-- A word of each assigned code, with 32 in its `D` field. -/
def wordsOfEachCode : List CmdWord :=
  [0x00020, 0x10020, 0x20020, 0x30020, 0x40020, 0x50020, 0x60020, 0x70020, 0x80020, 0x90020]

/-- Both illegal ends of `OP`, both sides of the length bound for each of the three sized operations. -/
theorem witness_DecodingIsTotalWithNamedRefusals :
    ([0xA0000, 0xFFFFF, 0x30021, 0x40021, 0x90021] : List CmdWord).map (fun w => (w.extractLsb' 16 4).toNat) =
      [10, 15, 3, 4, 9] ∧
    ([0x30021, 0x40021, 0x90021] : List CmdWord).map (fun w => (w.extractLsb' 0 8).toNat) = [33, 33, 33] ∧
    wordsOfEachCode.map (fun w => (w.extractLsb' 16 4).toNat) = [0, 1, 2, 3, 4, 5, 6, 7, 8, 9] ∧
    wordsOfEachCode.map (fun w => (w.extractLsb' 0 8).toNat) = List.replicate 10 32 := ⟨rfl, rfl, rfl, rfl⟩

theorem witness_UnusedFieldsAreIgnored :
    opField 0x7FFFF = opField 0x70000 ∧ (opField 0x7FFFF).toNat ∈ [0, 5, 6, 7, 8] ∧
    opField 0x107FF = opField 0x10700 ∧ aField 0x107FF = aField 0x10700 ∧ (opField 0x107FF).toNat = 1 ∧
    opField 0x3FF20 = opField 0x30020 ∧ dField 0x3FF20 = dField 0x30020 ∧ (opField 0x3FF20).toNat ∈ [3, 4] ∧
    (0x27 : Byte) &&& 0x1F = (0x07 : Byte) &&& 0x1F := by decide

/-- For the ten statements of the operations (`StatCapturesTheStatusByte`, `RregReadsOneByteIntoRdata`,
`WregWritesAndChecksTheStatusByte`, `WregmWritesBufferBytesAndChecks`, `RpayFillsTheBuffer`, `WpaySendsTheBuffer`,
`FlrxSendsTheFlushCommand`, `FltxSendsTheFlushCommand`, `EncOverwritesTheBuffer`, `DecLoadsTheTimePacket`): words of each
code, a block that is ready, lengths at both sides of the bound. -/
theorem witness_OperationStatements :
    wordsOfEachCode.map (fun w => w.extractLsb' 16 4) = [0x0, 0x1, 0x2, 0x3, 0x4, 0x5, 0x6, 0x7, 0x8, 0x9] ∧
    wordsOfEachCode.map (fun w => (w.extractLsb' 0 8).toNat) = List.replicate 10 32 ∧
    Ready State.reset ∧ (0 : Byte).toNat ≤ 32 ∧ (32 : Byte).toNat ≤ 32 ∧ 32 < (33 : Byte).toNat :=
  ⟨rfl, rfl, by decide, by decide, by decide, by decide⟩

theorem witness_CommandsAreTakenOnlyWhenReady :
    faulted.fault ≠ 0 ∧ inFlight.fault = 0 ∧ inFlight.busy = true := by decide

theorem witness_RegistersAreWrittenOnlyByTheirOperations : exec .stat faulted = .next faulted := rfl

theorem witness_OnlyAFailedRegisterWriteClearsOk :
    Ready (answering [0x2E, 0x00]) ∧ (Instr.wreg 0x05 0x4C).wellFormed = true ∧
    ∃ t, exec (.wreg 0x05 0x4C) (answering [0x2E, 0x00]) = .next t := ⟨by decide, by decide, goesOn_next (by decide)⟩

theorem witness_EveryFrameBeginsWithAKnownCommandByte :
    exec .flrx State.reset = .next (next (exec .flrx State.reset)) := rfl

theorem witness_TransmitDoneMakesEveryWriteFail :
    Ready (answering [0x20]) ∧ (32 : Byte).toNat ≤ 32 ∧
    (∃ t, exec (.wreg 0x07 0x70) (answering [0x20]) = .next t) ∧
    ∃ t, exec (.wregm 0x0A 32) (answering [0x20]) = .next t :=
  ⟨by decide, by decide, goesOn_next (by decide), goesOn_next (by decide)⟩

theorem witness_CodecOperationsCompose : Ready State.reset := ready_reset

theorem witness_DecodeReadsTheFirstThreeBytes :
    (State.reset.pb.load [1, 2, 3, 4])[0] = (State.reset.pb.load [1, 2, 3])[0] ∧
    (State.reset.pb.load [1, 2, 3, 4])[1] = (State.reset.pb.load [1, 2, 3])[1] ∧
    (State.reset.pb.load [1, 2, 3, 4])[2] = (State.reset.pb.load [1, 2, 3])[2] ∧
    State.reset.pb.load [1, 2, 3, 4] ≠ State.reset.pb.load [1, 2, 3] := by decide

/-- For `EncodeLaysOutThePayload` and `CodecLaws`: the first and the last padding byte, and a packet twice. -/
theorem witness_CodecLaws :
    3 ≤ 3 ∧ 3 < 32 ∧ 3 ≤ 31 ∧ 31 < 32 ∧ encodePacket State.reset.tp = encodePacket { seconds := 0, sequence := 0 } :=
  ⟨by decide, by decide, by decide, by decide, rfl⟩

theorem witness_StepRunsTheDecodedInstruction :
    (facing (.command 0x30020)).hostNow.commandAlone ∧ (facing (.command 0x30020)).busy = false ∧
    (facing (.command 0x30020)).grain = .operation ∧
    decode (facing (.command 0x30020)).hostNow.cmd = .ok (.rpay 32) ∧
    decodeTableWord 24 0x30020 = some (.rpay 32) := ⟨by decide, rfl, rfl, rfl, by decide⟩

/-- At both levels below the operation level, with a bus operation and with ENC. -/
theorem witness_StepBeginsAFrameBelowOperationLevel :
    (facing (.command 0x00000)).hostNow.commandAlone ∧
    Ready { facing (.command 0x00000) with grain := .byte } ∧ Grain.byte ≠ .operation ∧ Grain.bit ≠ .operation ∧
    decode 0x00000 = .ok .stat ∧ Instr.stat ≠ .enc ∧ Instr.stat ≠ .dec ∧ decode 0x70000 = .ok .enc :=
  ⟨by decide, by decide, by decide, by decide, rfl, by decide, by decide, rfl⟩

theorem witness_UnassignedCodeRaisesIllegalOp :
    (facing (.command 0xA0000)).hostNow.commandAlone ∧ Ready (facing (.command 0xA0000)) ∧
    9 < ((facing (.command 0xA0000)).hostNow.cmd.extractLsb' 16 4).toNat := by decide

/-- Both sides of the bound. -/
theorem witness_LengthAbove32RaisesBadLength :
    ((facing (.command 0x30020)).hostNow.commandAlone ∧ Ready (facing (.command 0x30020)) ∧
      ((facing (.command 0x30020)).hostNow.cmd.extractLsb' 16 4).toNat = 3 ∧
      ((facing (.command 0x30020)).hostNow.cmd.extractLsb' 0 8).toNat = 32) ∧
    (facing (.command 0x90021)).hostNow.commandAlone ∧ Ready (facing (.command 0x90021)) ∧
    ((facing (.command 0x90021)).hostNow.cmd.extractLsb' 16 4).toNat = 9 ∧
    ((facing (.command 0x90021)).hostNow.cmd.extractLsb' 0 8).toNat = 33 :=
  ⟨⟨by decide, by decide, rfl, rfl⟩, by decide, by decide, rfl, rfl⟩

/-- The cycle that presents a buffer write to a frame in flight. -/
def overlapping : State := { inFlight with host := [.setPb 0 0xFF] }

theorem witness_OverlapRaisesBadAccess :
    (overlapping.hostNow.rst = false ∧ overlapping.fault = 0 ∧ overlapping.busy = true ∧
      0 < overlapping.hostNow.strobes ∧
      step { overlapping with host := overlapping.hostNow.withoutAction :: overlapping.host.tail } =
        .next (next (step { overlapping with
          host := overlapping.hostNow.withoutAction :: overlapping.host.tail }))) ∧
    1 < (facing { HostCycle.setPb 0 0xFF with tpWe := true }).hostNow.strobes ∧
    (facing { HostCycle.setPb 0 0xFF with tpWe := true }).busy = false := ⟨⟨rfl, rfl, rfl, by decide, rfl⟩, by decide, rfl⟩

/-- The rest of the frame and one cycle more. -/
theorem witness_AFaultLeavesTheFrameUndisturbed :
    overlapping.busy = true ∧ overlapping.fault = 0 ∧ overlapping.host = HostCycle.setPb 0 0xFF :: [] ∧
    (HostCycle.setPb 0 0xFF).rst = false ∧ 0 < (HostCycle.setPb 0 0xFF).strobes ∧
    (∀ d ∈ ([] : List HostCycle), d.silent) ∧
    ∃ t, run (3 + 1) { overlapping with host := (HostCycle.setPb 0 0xFF).withoutAction :: [] } = .next t :=
  ⟨rfl, rfl, rfl, rfl, by decide, by simp, goesOn_next (by decide)⟩

theorem witness_FaultPriority : step overlapping = .next (next (step overlapping)) := rfl

theorem witness_AFaultedBlockIsQuiescent :
    ({ overlapping with fault := 1 }.fault ≠ 0 ∧ overlapping.busy = true ∧ overlapping.hostNow.rst = false ∧
      ∃ t, step { overlapping with fault := 1 } = .next t) ∧
    { faulted with host := [.command 0x00000] }.fault ≠ 0 ∧ { faulted with host := [.command 0x00000] }.busy = false ∧
    ∀ c ∈ { faulted with host := [.command 0x00000] }.host, c.rst = false :=
  ⟨⟨by decide, rfl, rfl, _, rfl⟩, by decide, rfl, by decide⟩

theorem witness_OnlyResetClearsAFault :
    step { faulted with host := [.reset] } = .next (next (step { faulted with host := [.reset] })) ∧
    faulted.fault ≠ 0 ∧ (next (step { faulted with host := [.reset] })).fault ≠ faulted.fault :=
  ⟨rfl, by decide, by decide⟩

theorem witness_ResetValues :
    { inFlight with host := [.reset] }.hostNow.rst = true ∧
    step { inFlight with host := [.reset] } = .next (next (step { inFlight with host := [.reset] })) := ⟨rfl, rfl⟩

theorem witness_ResetBeatsEverything :
    { inFlight with host := [.reset] }.hostNow.rst = true ∧ (facing .reset).hostNow.rst = true ∧
    inFlight.busy = true ∧ (facing .reset).busy = false := ⟨rfl, rfl, rfl, rfl⟩

/-- The last byte of the buffer; an unfaulted and a faulted block. -/
theorem witness_BufferPortWritesOneByte :
    let s := facing (.setPb 31 0x99)
    s.hostNow.rst = false ∧ s.hostNow.pbWe = true ∧ s.hostNow.cmdValid = false ∧ s.hostNow.tpWe = false ∧
    s.busy = false ∧ s.fault = 0 ∧ { s with fault := 1 }.fault ≠ 0 := by decide

theorem witness_TimePacketPortWritesBothFields :
    let s := facing (.setTp 4660 86)
    s.hostNow.rst = false ∧ s.hostNow.tpWe = true ∧ s.hostNow.cmdValid = false ∧ s.hostNow.pbWe = false ∧
    s.busy = false ∧ s.fault = 0 ∧ { s with fault := 1 }.fault ≠ 0 := by decide

theorem witness_ResultPortsShowTheRegisters : State.reset.busy = false := rfl

theorem witness_DonePulsesExactlyOnCompletion :
    step (facing (.command 0x70000)) = .next (next (step (facing (.command 0x70000)))) := rfl

theorem witness_EveryStepKeepsTheInvariant :
    MachineInv inFlight ∧ step inFlight = .next (next (step inFlight)) ∧
    MachineInv State.reset ∧ step State.reset = .next (next (step State.reset)) :=
  ⟨inv_inFlight, rfl, inv_reset, rfl⟩

theorem witness_NoStepFromTheInvariantStops : MachineInv inFlight := inv_inFlight

theorem witness_TheTraceOnlyGrows : step inFlight = .next (next (step inFlight)) := rfl

theorem witness_NoResultBeforeTheFrameEnds :
    step inFlight = .next (next (step inFlight)) ∧ inFlight.busy = true ∧ (next (step inFlight)).busy = true :=
  ⟨rfl, rfl, rfl⟩

theorem witness_EveryFrameEnds : MachineInv { inFlight with grain := .bit } ∧ inFlight.busy = true ∧ HostSilent inFlight :=
  ⟨inv_inFlight_bit, rfl, rfl⟩

/-- An RPAY 32 about to be presented, the longest frame. -/
def beforeRpay (g : Grain) : State := { facing (.command 0x30020) with grain := g }

theorem witness_ByteLevelAgreesWithOperationLevel :
    MachineInv (beforeRpay .byte) ∧ Ready (beforeRpay .byte) ∧ (beforeRpay .byte).grain = .byte ∧
    (beforeRpay .byte).host = [.command 0x30020] ∧ (HostCycle.command 0x30020).commandAlone ∧
    decode 0x30020 = .ok (.rpay 32) ∧ busOpOf (.rpay 32) (beforeRpay .byte).pb = some (rpayOp 32) ∧
    exec (.rpay 32) (beforeRpay .byte) = .next (next (exec (.rpay 32) (beforeRpay .byte))) :=
  ⟨inv_reset, by decide, rfl, rfl, by decide, rfl, rfl, rfl⟩

theorem witness_BitLevelAgreesWithOperationLevel :
    MachineInv (beforeRpay .bit) ∧ Ready (beforeRpay .bit) ∧ (beforeRpay .bit).grain = .bit ∧
    (beforeRpay .bit).host = [.command 0x30020] ∧ (HostCycle.command 0x30020).commandAlone ∧
    decode 0x30020 = .ok (.rpay 32) ∧ busOpOf (.rpay 32) (beforeRpay .bit).pb = some (rpayOp 32) ∧
    exec (.rpay 32) (beforeRpay .bit) = .next (next (exec (.rpay 32) (beforeRpay .bit))) :=
  ⟨inv_reset, by decide, rfl, rfl, by decide, rfl, rfl, rfl⟩

/-- A command exchange and a data exchange. -/
theorem witness_BitsGoMostSignificantFirst :
    (MachineInv { inFlight with grain := .bit } ∧ inFlight.busy = true ∧ inFlight.shifting = false ∧
      HostSilent inFlight ∧ inFlight.inFlight = some (rpayOp 1) ∧
      inFlight.ph = .command ∧ Config.CMD_R_RX_PAYLOAD = (rpayOp 1).cmd) ∧
    MachineInv { inFlightData with grain := .bit } ∧ inFlightData.shifting = false ∧
    inFlightData.inFlight = some (rpayOp 1) ∧ inFlightData.ph = .data ∧
    (rpayOp 1).out[inFlightData.idx.toNat]? = some Config.DUMMY_BYTE :=
  ⟨⟨inv_inFlight_bit, rfl, rfl, rfl, rfl, rfl, rfl⟩, inv_inFlightData_bit, rfl, rfl, rfl, rfl⟩

end Sys2Proof.Tests
end

section
/-! The reset values (10_state.md R43): a step with `rst` = 1 answers a state whose block is `Block.reset`. -/

namespace Sys2Proof.Machine

/-- The step of a cycle with `rst` = 1, whatever else the host presents (60_exceptions.md R206). -/
theorem step_of_rst {s : State} (hr : s.hostNow.rst = true) : step s = .next s.beginCycle.resetBlock := by
  simp [step, cycle, hr]

theorem toBlock_of_step_of_rst {s t : State} (hr : s.hostNow.rst = true) (h : step s = .next t) :
    t.toBlock = Block.reset := by
  rw [step_of_rst hr] at h
  obtain rfl : s.beginCycle.resetBlock = t := by simpa using h
  exact State.resetBlock_toBlock _

theorem Block.reset_pb_getElem (i : Nat) (h : i < 32) : Block.reset.pb[i] = 0x00 :=
  Vector.getElem_replicate h

/-- Settles O37: the block after reset and after a cycle with `rst` = 1 is `Block.reset`, whose registers are read off. -/
theorem resetValues : Obligations.ResetValues := by
  refine ⟨rfl, fun t ht => ?_⟩
  have hb : t.toBlock = Block.reset := by
    obtain rfl | ⟨s, hr, hs⟩ := ht
    · rfl
    · exact toBlock_of_step_of_rst hr hs
  rw [hb]
  exact ⟨Block.reset_pb_getElem, rfl, rfl, rfl, rfl, rfl, rfl, rfl, rfl, rfl, rfl, rfl⟩

end Sys2Proof.Machine
end

section
/-! The fields an operation uses (30_encoding.md R83): which words decode alike, the zeros of the canonical word, the
exact set of refused words. -/

namespace Sys2Proof

/-- STAT, FLRX, FLTX, ENC and DEC use neither `A` nor `D`. -/
theorem decode_eq_of_no_field_used {w w' : CmdWord} (hop : opField w = opField w')
    (h : (opField w).toNat ∈ [0, 5, 6, 7, 8]) : decode w = decode w' := by
  simp only [List.mem_cons, List.not_mem_nil, or_false] at h
  rcases h with h | h | h | h | h
  · rw [decode_stat h, decode_stat (hop ▸ h)]
  · rw [decode_flrx h, decode_flrx (hop ▸ h)]
  · rw [decode_fltx h, decode_fltx (hop ▸ h)]
  · rw [decode_enc h, decode_enc (hop ▸ h)]
  · rw [decode_dec h, decode_dec (hop ▸ h)]

/-- RREG uses `A` only. -/
theorem decode_eq_of_aField_eq {w w' : CmdWord} (hop : opField w = opField w') (h : (opField w).toNat = 1)
    (ha : aField w = aField w') : decode w = decode w' := by
  rw [decode_rreg h, decode_rreg (hop ▸ h), ha]

/-- RPAY and WPAY use `D` only. -/
theorem decode_eq_of_dField_eq {w w' : CmdWord} (hop : opField w = opField w') (h : (opField w).toNat ∈ [3, 4])
    (hd : dField w = dField w') : decode w = decode w' := by
  simp only [List.mem_cons, List.not_mem_nil, or_false] at h
  rcases h with h | h
  · rw [decode_rpay h, decode_rpay (hop ▸ h), hd]
  · rw [decode_wpay h, decode_wpay (hop ▸ h), hd]

theorem fields_encode_of_no_field_used {i : Instr} (h : i ∈ [Instr.stat, .flrx, .fltx, .enc, .dec]) :
    aField (encode i) = 0 ∧ dField (encode i) = 0 := by
  simp only [List.mem_cons, List.not_mem_nil, or_false] at h
  rcases h with rfl | rfl | rfl | rfl | rfl <;> exact ⟨aField_pack .., dField_pack ..⟩

/-- A length above 32 is refused for every operation that takes one (R89). -/
theorem decode_badLength {w : CmdWord} (h : (opField w).toNat ∈ [3, 4, 9]) (hd : 32 < (dField w).toNat) :
    decode w = .error .badLength := by
  simp only [List.mem_cons, List.not_mem_nil, or_false] at h
  rcases h with h | h | h
  · rw [decode_rpay h, checkLength_eq_error.mpr ⟨hd, rfl⟩]
  · rw [decode_wpay h, checkLength_eq_error.mpr ⟨hd, rfl⟩]
  · rw [decode_wregm h, checkLength_eq_error.mpr ⟨hd, rfl⟩]

theorem decode_refuses_iff (w : CmdWord) :
    (∃ e, decode w = .error e) ↔
      9 < (opField w).toNat ∨ ((opField w).toNat ∈ [3, 4, 9] ∧ 32 < (dField w).toNat) := by
  constructor
  · rintro ⟨e, he⟩
    obtain ⟨hop, -⟩ | ⟨hop, hd, -⟩ := decode_error_cases he
    · exact .inl hop
    · exact .inr ⟨by simpa using hop, hd⟩
  · rintro (hop | ⟨hop, hd⟩)
    · exact ⟨_, decode_illegalOp hop⟩
    · exact ⟨_, decode_badLength hop hd⟩

end Sys2Proof
end

section
/-! The mask drops `A[7:5]` (30_encoding.md R83, R86): a register operation depends on the low 5 bits of its address,
through its command byte alone. -/

namespace Sys2Proof.Machine

section lowBits

variable {a a' : Byte} (h : a &&& 0x1F = a' &&& 0x1F)
include h

theorem rcmd_eq_of_low_bits_eq : rcmd a = rcmd a' := congrArg (Config.CMD_R_REGISTER ||| ·) h

theorem wcmd_eq_of_low_bits_eq : wcmd a = wcmd a' := congrArg (Config.CMD_W_REGISTER ||| ·) h

theorem exec_rreg_eq_of_low_bits_eq (s : State) : exec (.rreg a) s = exec (.rreg a') s := by
  simp only [exec_eq_accept, State.perform, rregOp, rcmd_eq_of_low_bits_eq h]

theorem exec_wreg_eq_of_low_bits_eq (v : Byte) (s : State) : exec (.wreg a v) s = exec (.wreg a' v) s := by
  simp only [exec_eq_accept, State.perform, wregOp, wcmd_eq_of_low_bits_eq h]

theorem exec_wregm_eq_of_low_bits_eq (n : Byte) (s : State) : exec (.wregm a n) s = exec (.wregm a' n) s := by
  simp only [exec_eq_accept, State.perform, wregmOp, wcmd_eq_of_low_bits_eq h]

end lowBits

/-- Settles O5: the decoder by operation code, the command byte's mask, the fields of a packed word, and the two reasons
of refusal. -/
theorem unusedFieldsAreIgnored : Obligations.UnusedFieldsAreIgnored :=
  ⟨fun _ _ hop => ⟨decode_eq_of_no_field_used hop, decode_eq_of_aField_eq hop, decode_eq_of_dField_eq hop⟩,
    fun _ _ v n s h => ⟨exec_rreg_eq_of_low_bits_eq h s, exec_wreg_eq_of_low_bits_eq h v s,
      exec_wregm_eq_of_low_bits_eq h n s⟩,
    fun _ => fields_encode_of_no_field_used,
    fun _ => dField_pack ..,
    fun _ => ⟨aField_pack .., aField_pack ..⟩,
    decode_refuses_iff⟩

end Sys2Proof.Machine
end

section
/-! An accepted bus operation and an accepted bad length, each as one rule over the whole block (20_memory.md R70,
60_exceptions.md R202): what every statement of an operation with a frame is read off. -/

namespace Sys2Proof.Machine

variable {s : State} {i : Instr} {op : BusOp}

/-- A ready block given a bus operation sends its frame, and of the block only what `op` commits, the pins and `done`
move. -/
theorem exec_busOp (hr : Ready s) (hw : i.wellFormed = true) (hop : busOpOf i s.pb = some op)
    (write : Byte → List Byte → Block → Block)
    (hwrite : ∀ b l t, (op.commit b l t).toBlock = write b l t.toBlock) :
    ∃ (s0 : Byte) (din : List Byte) (t : State),
      exec i s = .next t ∧ FrameSent s t op.cmd op.out s0 din ∧
      t.toBlock = { write s0 din { s.toBlock with csn := true, sck := false, mosi := lastBitSent op.cmd op.out } with
        done := t.done } := by
  refine ⟨_, _, s.performBus op, ?_, performBus_frameSent s (busOpOf_commits hop), ?_⟩
  · rw [exec_of_ready hr.1 hr.2, perform_of_busOp hw hop]
  · rw [← frame_toBlock, ← hwrite]
    rfl

/-- A ready block given a length above 32 raises BadLength: `FAULT` is 2, and nothing else moves. -/
theorem exec_badLength (hr : Ready s) (hw : i.wellFormed = false) :
    ∃ t : State, exec i s = .next t ∧ t.toBlock = { s.toBlock with fault := 2 } ∧ t.trace = s.trace :=
  ⟨s.raise .badLength, by rw [exec_of_ready hr.1 hr.2, perform_of_length hw], rfl, rfl⟩

theorem lengthOk_eq_false_iff (n : Byte) : lengthOk n = false ↔ 32 < n.toNat := by
  rw [← Bool.not_eq_true, lengthOk_iff, Nat.not_le]

end Sys2Proof.Machine
end

section
/-! The register access operations (40_register_access.md R110, R112, R114, R120): each is its `BusOp` put into the rule
for accepted bus operations. -/

namespace Sys2Proof.Machine

theorem writeOk_eq_decide (s0 : Byte) : writeOk s0 = decide (s0 &&& 0x20 = 0) := rfl

/-- What WREG and WREGM share (R114, R120): the data bytes go out whatever the command-phase byte is; that byte is
captured and checked. -/
theorem exec_checkedWrite {s : State} {i : Instr} {op : BusOp} (hr : Ready s) (hw : i.wellFormed = true)
    (hop : busOpOf i s.pb = some op) (hcommit : ∀ b l t, op.commit b l t = { t with status := b, ok := writeOk b }) :
    ∃ (s0 : Byte) (din : List Byte) (t : State),
      exec i s = .next t ∧ FrameSent s t op.cmd op.out s0 din ∧
      t.toBlock = { s.toBlock with
        status := s0, ok := decide (s0 &&& 0x20 = 0), done := t.done, csn := true, sck := false
        mosi := lastBitSent op.cmd op.out } :=
  exec_busOp hr hw hop (fun b _ blk => { blk with status := b, ok := decide (b &&& 0x20 = 0) }) fun b l t => by
    rw [hcommit, writeOk_eq_decide]

/-- Settles O10: the decoder's arm, the packed word as a number, and for the lengths on each side of the bound the rule of
a checked write and the rule of a bad length. -/
theorem wregmWritesBufferBytesAndChecks : Obligations.WregmWritesBufferBytesAndChecks := by
  refine ⟨fun w hop hd => ?_, fun a n => pack_toNat .., fun a n s hr => ⟨fun hn => ?_, fun hn => ?_⟩⟩
  · rw [decode_wregm (congrArg BitVec.toNat hop)]
    exact checkLength_eq_ok.mpr ⟨hd, rfl⟩
  · exact exec_checkedWrite hr (i := .wregm a n) (op := wregmOp a n s.pb) ((lengthOk_iff n).mpr hn) rfl fun _ _ _ => rfl
  · exact exec_badLength hr (i := .wregm a n) ((lengthOk_eq_false_iff n).mpr hn)

/-- Settles O7: a frame of the command byte alone receives no data byte, and STAT commits the command-phase byte. -/
theorem statCapturesTheStatusByte : Obligations.StatCapturesTheStatusByte := by
  refine ⟨fun w hop => decode_stat (congrArg BitVec.toNat hop), rfl, fun s hr => ?_⟩
  obtain ⟨s0, din, t, hexec, hframe, hblock⟩ := exec_busOp hr (i := .stat) (op := statOp) rfl rfl
    (fun b _ blk => { blk with status := b, ok := true }) fun _ _ _ => rfl
  obtain rfl : din = [] := List.eq_nil_of_length_eq_zero hframe.1
  exact ⟨s0, t, hexec, hframe, hblock⟩

/-- Settles O8: a frame of one dummy byte receives one byte, which RREG commits to `RDATA`. -/
theorem rregReadsOneByteIntoRdata : Obligations.RregReadsOneByteIntoRdata := by
  refine ⟨fun w hop => decode_rreg (congrArg BitVec.toNat hop), fun a => pack_toNat .., fun a s hr => ?_⟩
  obtain ⟨s0, din, t, hexec, hframe, hblock⟩ := exec_busOp hr (i := .rreg a) (op := rregOp a) rfl rfl
    (fun _ l blk => { blk with rdata := l.headD 0, ok := true }) fun _ _ _ => rfl
  obtain ⟨d, rfl⟩ : ∃ d, din = [d] := List.length_eq_one_iff.mp hframe.1
  exact ⟨s0, d, t, hexec, hframe, hblock⟩

/-- Settles O9: a checked write whose frame carries one byte, so that one byte is received and discarded. -/
theorem wregWritesAndChecksTheStatusByte : Obligations.WregWritesAndChecksTheStatusByte := by
  refine ⟨fun w hop => decode_wreg (congrArg BitVec.toNat hop), fun a v => pack_toNat .., fun a v s hr => ?_⟩
  obtain ⟨s0, din, t, hexec, hframe, hblock⟩ :=
    exec_checkedWrite hr (i := .wreg a v) (op := wregOp a v) rfl rfl fun _ _ _ => rfl
  obtain ⟨d, rfl⟩ : ∃ d, din = [d] := List.length_eq_one_iff.mp hframe.1
  exact ⟨s0, d, t, hexec, hframe, hblock⟩

end Sys2Proof.Machine
end

section
/-! The status predicates (40_register_access.md R118): a mask of one bit tests that bit. -/

namespace Sys2Proof.Machine

/-- A byte under a mask of one bit is non-zero exactly when it has that bit. -/
theorem and_twoPow_bne_zero (s : Byte) {k : Nat} (hk : k < 8) : ((s &&& BitVec.twoPow 8 k) != 0) = s.getLsbD k := by
  have hmask : BitVec.twoPow 8 k ≠ 0 := fun h => by simpa [hk] using congrArg (·.getLsbD k) h
  rw [BitVec.and_twoPow]
  cases s.getLsbD k with
  | false => rfl
  | true => exact bne_iff_ne.mpr hmask

theorem isDataAvailable_eq_bit (s : Byte) : isDataAvailable s = s.getLsbD 6 := and_twoPow_bne_zero (k := 6) s (by decide)

theorem isTxDone_eq_bit (s : Byte) : isTxDone s = s.getLsbD 5 := and_twoPow_bne_zero (k := 5) s (by decide)

theorem isMaxRetries_eq_bit (s : Byte) : isMaxRetries s = s.getLsbD 4 := and_twoPow_bne_zero (k := 4) s (by decide)

/-- While `BUSY` is 0 the three status wires are the predicates applied to `STATUS` (10_state.md R37). -/
theorem outputs_status_wires {s : State} (hb : s.busy = false) (a : BitVec 5) :
    (s.outputs a).rxDr = isDataAvailable s.status ∧ (s.outputs a).txDs = isTxDone s.status ∧
      (s.outputs a).maxRt = isMaxRetries s.status := by
  simp [State.outputs, hb]

/-- Settles O23: the masks as written, the one bit each tests, and the wires of a block that is not busy. -/
theorem statusPredicatesAreSingleBits : Obligations.StatusPredicatesAreSingleBits :=
  ⟨fun _ => ⟨decide_not.symm, decide_not.symm, decide_not.symm⟩,
    fun s => ⟨isDataAvailable_eq_bit s, isTxDone_eq_bit s, isMaxRetries_eq_bit s⟩,
    fun _ a hb => outputs_status_wires hb a⟩

end Sys2Proof.Machine
end

section
/-! The payload and flush operations (41_payload_fifo.md R130, R132, R134, R135): the buffer takes what RPAY receives;
WPAY, FLRX and FLTX send and set `OK`. -/

namespace Sys2Proof.Machine

/-- Settles O11: the decoder's arm, the packed word as a number, and the two sides of the length bound. Up to 32 the
frame receives as many bytes as dummy bytes went out, and loading them leaves the rest of the buffer. -/
theorem rpayFillsTheBuffer : Obligations.RpayFillsTheBuffer := by
  refine ⟨fun w hop hd => ?_, fun n => pack_toNat .., fun n s hr => ⟨fun hn => ?_, fun hn => ?_⟩⟩
  · rw [decode_rpay (congrArg BitVec.toNat hop)]
    exact checkLength_eq_ok.mpr ⟨hd, rfl⟩
  · obtain ⟨s0, din, t, hexec, hframe, hblock⟩ :=
      exec_busOp hr (i := .rpay n) (op := rpayOp n) ((lengthOk_iff n).mpr hn) rfl
        (fun _ l blk => { blk with pb := blk.pb.load l, ok := true }) fun _ _ _ => rfl
    have hlen : din.length = n.toNat := hframe.1.trans List.length_replicate
    have hpb : t.pb = s.pb.load din := by rw [hblock]
    refine ⟨s0, din, t, hexec, hframe, ?_, ?_⟩
    · rw [hpb, Payload.load_toList _ _ (hlen ▸ hn), hlen]
    · rw [hpb]
      exact hblock
  · exact exec_badLength hr (i := .rpay n) ((lengthOk_eq_false_iff n).mpr hn)

section okOnly

variable {s : State} {i : Instr} {op : BusOp} (hr : Ready s) (hw : i.wellFormed = true) (hop : busOpOf i s.pb = some op)
  (hcommit : ∀ b l t, op.commit b l t = { t with ok := true })
include hr hw hop hcommit

/-- What WPAY, FLRX and FLTX share (R132, R134, R135): all that is received is discarded, and `OK` is the only register
written. -/
theorem exec_okOnly : ∃ (s0 : Byte) (din : List Byte) (t : State),
    exec i s = .next t ∧ FrameSent s t op.cmd op.out s0 din ∧
    t.toBlock = { s.toBlock with
      ok := true, done := t.done, csn := true, sck := false, mosi := lastBitSent op.cmd op.out } :=
  exec_busOp hr hw hop (fun _ _ blk => { blk with ok := true }) fun b l t => by rw [hcommit]

/-- A frame of the command byte alone receives no data byte, and its last bit is the command byte's (R134, R135). -/
theorem exec_okOnly_of_no_data (hout : op.out = []) : ∃ (s0 : Byte) (t : State),
    exec i s = .next t ∧ FrameSent s t op.cmd [] s0 [] ∧
    t.toBlock = { s.toBlock with
      ok := true, done := t.done, csn := true, sck := false, mosi := op.cmd.getLsbD 0 } := by
  obtain ⟨s0, din, t, hexec, hframe, hblock⟩ := exec_okOnly hr hw hop hcommit
  rw [hout] at hframe hblock
  obtain rfl : din = [] := List.eq_nil_of_length_eq_zero hframe.1
  exact ⟨s0, t, hexec, hframe, hblock⟩

end okOnly

/-- Settles O12: the decoder's arm, the packed word as a number, and for the lengths on each side of the bound the rule of
an operation that writes `OK` only and the rule of a bad length. -/
theorem wpaySendsTheBuffer : Obligations.WpaySendsTheBuffer := by
  refine ⟨fun w hop hd => ?_, fun n => pack_toNat .., fun n s hr => ⟨fun hn => ?_, fun hn => ?_⟩⟩
  · rw [decode_wpay (congrArg BitVec.toNat hop)]
    exact checkLength_eq_ok.mpr ⟨hd, rfl⟩
  · exact exec_okOnly hr (i := .wpay n) (op := wpayOp n s.pb) ((lengthOk_iff n).mpr hn) rfl fun _ _ _ => rfl
  · exact exec_badLength hr (i := .wpay n) ((lengthOk_eq_false_iff n).mpr hn)

/-- Settles O13: a frame of `CMD_FLUSH_RX` alone that writes `OK` only. -/
theorem flrxSendsTheFlushCommand : Obligations.FlrxSendsTheFlushCommand :=
  ⟨fun _ hop => decode_flrx (congrArg BitVec.toNat hop), rfl, fun _ hr =>
    exec_okOnly_of_no_data hr (i := .flrx) (op := flrxOp) rfl rfl (fun _ _ _ => rfl) rfl⟩

/-- Settles O14: a frame of `CMD_FLUSH_TX` alone that writes `OK` only. -/
theorem fltxSendsTheFlushCommand : Obligations.FltxSendsTheFlushCommand :=
  ⟨fun _ hop => decode_fltx (congrArg BitVec.toNat hop), rfl, fun _ hr =>
    exec_okOnly_of_no_data hr (i := .fltx) (op := fltxOp) rfl rfl (fun _ _ _ => rfl) rfl⟩

end Sys2Proof.Machine
end

section
/-! The packet codec (42_packet_codec.md): the two pure functions byte by byte (R150, R151), and ENC and DEC, which apply
them to the block with no frame (R153, R154). -/

namespace Sys2Proof.Machine

/-- Two joined bytes as a number, the first one high. -/
theorem append_toNat (x y : Byte) : (x ++ y).toNat = x.toNat * 2 ^ 8 + y.toNat := by
  rw [BitVec.toNat_append, ← Nat.shiftLeft_add_eq_or_of_lt y.isLt, Nat.shiftLeft_eq]

theorem encodePacket_getElem_of_three_le (p : TimePacket) (i : Nat) (h : i < 32) (hi : 3 ≤ i) :
    (encodePacket p)[i] = 0x00 := by
  obtain ⟨k, rfl⟩ := Nat.exists_eq_add_of_le' hi
  exact encodePacket_getElem_padding p k h

/-- Settles O24: the three coded bytes, then the padding. -/
theorem encodeLaysOutThePayload : Obligations.EncodeLaysOutThePayload := fun p =>
  ⟨encodePacket_getElem_zero p, encodePacket_getElem_one p, encodePacket_getElem_two p,
    encodePacket_getElem_of_three_le p⟩

theorem decodePacket_congr {b b' : Payload} (h0 : b[0] = b'[0]) (h1 : b[1] = b'[1]) (h2 : b[2] = b'[2]) :
    decodePacket b = decodePacket b' := by
  simp only [decodePacket, h0, h1, h2]

/-- Settles O25: the seconds are two joined bytes as a number, and no byte beyond index 2 is read. -/
theorem decodeReadsTheFirstThreeBytes : Obligations.DecodeReadsTheFirstThreeBytes :=
  ⟨fun b => ⟨append_toNat b[0] b[1], rfl⟩, fun _ _ => decodePacket_congr⟩

section noFrame

variable {s : State} {i : Instr} (hi : i = .enc ∨ i = .dec)
include hi

/-- ENC and DEC raise no fault, open no frame and put nothing on the bus. -/
theorem perform_codec_keeps :
    (s.perform i).fault = s.fault ∧ (s.perform i).busy = s.busy ∧
      (s.perform i).trace = s.trace ∧ (s.perform i).slave = s.slave := by
  obtain rfl | rfl := hi <;> simp [State.perform]

/-- Neither ENC nor DEC writes the register it reads, so a second time it writes what already stands there. -/
theorem perform_codec_idem : (s.perform i).perform i = s.perform i := by
  obtain rfl | rfl := hi <;> simp only [State.perform, State.complete]

/-- What ENC and DEC share in a ready block (R153, R154): they are performed with no frame, and again with no effect. -/
theorem exec_codec (hr : Ready s) :
    exec i s = .next (s.perform i) ∧ (s.perform i).trace = s.trace ∧ (s.perform i).slave = s.slave ∧
      exec i (s.perform i) = .next (s.perform i) := by
  obtain ⟨hfault, hbusy, htrace, hslave⟩ := perform_codec_keeps (s := s) hi
  have again : exec i (s.perform i) = .next ((s.perform i).perform i) :=
    exec_of_ready (hfault.trans hr.1) (hbusy.trans hr.2) i
  exact ⟨exec_of_ready hr.1 hr.2 i, htrace, hslave, again.trans (congrArg _ (perform_codec_idem hi))⟩

end noFrame

theorem perform_enc_toBlock (s : State) :
    (s.perform .enc).toBlock = { s.toBlock with pb := encodePacket s.tp, ok := true, done := true } := rfl

theorem perform_dec_toBlock (s : State) :
    (s.perform .dec).toBlock = { s.toBlock with tp := decodePacket s.pb, ok := true, done := true } := rfl

/-- Settles O15: the decoder's arm, the canonical word, and ENC as an operation with no frame that writes `PB`. -/
theorem encOverwritesTheBuffer : Obligations.EncOverwritesTheBuffer := by
  refine ⟨fun w hop => decode_enc (congrArg BitVec.toNat hop), rfl, fun s hr => ?_⟩
  obtain ⟨once, htrace, hslave, again⟩ := exec_codec (.inl rfl) hr
  exact ⟨_, once, htrace, hslave, perform_enc_toBlock s, again⟩

/-- Settles O16: the decoder's arm, the canonical word, and DEC as an operation with no frame that writes `TP`. -/
theorem decLoadsTheTimePacket : Obligations.DecLoadsTheTimePacket := by
  refine ⟨fun w hop => decode_dec (congrArg BitVec.toNat hop), rfl, fun s hr => ?_⟩
  obtain ⟨once, htrace, hslave, again⟩ := exec_codec (.inr rfl) hr
  exact ⟨_, once, htrace, hslave, perform_dec_toBlock s, again⟩

end Sys2Proof.Machine
end

section
/-! What a command word does to a block that takes it (10_state.md R36, 60_exceptions.md R201, R202): the word is refused
with its fault, or its operation is performed or begun. -/

namespace Sys2Proof.Machine

variable {s : State} {w : CmdWord}

/-- What a command word does once it is taken: its fault, its operation performed whole, or its frame begun. -/
def State.acceptWord (s : State) (w : CmdWord) : State :=
  match decode w with
  | .error e => s.raise (faultOf e)
  | .ok i => if s.grain ≠ .operation ∧ (busOpOf i s.pb).isSome = true then s.start w else s.perform i

theorem acceptWord_of_error {e : DecodeError} (h : decode w = .error e) : s.acceptWord w = s.raise (faultOf e) := by
  simp only [State.acceptWord, h]

/-- A command word presented alone is taken or not by `accept`, whatever the word and the level. -/
theorem command_eq_accept (w : CmdWord) (s : State) : command w s = s.accept fun s => s.acceptWord w := by
  unfold command State.acceptWord
  cases decode w with
  | error e => rfl
  | ok i =>
    cases hg : s.grain <;> cases hop : (busOpOf i s.pb).isSome <;>
      simp [perform, exec_eq_accept, State.accept, hg, hop]

/-- A well-formed operation raises no fault. -/
theorem perform_fault {i : Instr} (hw : i.wellFormed = true) : (s.perform i).fault = s.fault := by
  obtain ⟨hw', -⟩ | ⟨-, op, hop, h⟩ | ⟨rfl, -⟩ | ⟨rfl, -⟩ := perform_cases s i
  · simp [hw] at hw'
  · rw [h, performBus_toBlock s (busOpOf_commits hop)]
  · exact (perform_codec_keeps (.inl rfl)).1
  · exact (perform_codec_keeps (.inr rfl)).1

/-- A word that stands for an operation raises no fault, performed or begun. -/
theorem acceptWord_fault_of_ok {i : Instr} (h : decode w = .ok i) : (s.acceptWord w).fault = s.fault := by
  simp only [State.acceptWord, h]
  split
  · rfl
  · exact perform_fault (decode_wellFormed h)

/-- IllegalOp is checked before BadLength, and nothing else of the word raises a fault (60_exceptions.md R206). -/
theorem acceptWord_fault (hf : s.fault = 0) (w : CmdWord) :
    (s.acceptWord w).fault =
      if 9 < (opField w).toNat then 1
      else if (opField w).toNat ∈ [3, 4, 9] ∧ 32 < (dField w).toNat then 2
      else 0 := by
  have hrefused := decode_refuses_iff w
  cases h : decode w with
  | ok i =>
    simp only [h, reduceCtorEq, exists_false, false_iff, not_or] at hrefused
    rw [acceptWord_fault_of_ok h, hf, if_neg hrefused.1, if_neg hrefused.2]
  | error e =>
    rw [acceptWord_of_error h]
    by_cases hop : 9 < (opField w).toNat
    · obtain rfl : DecodeError.illegalOp = e := by simpa [decode_illegalOp hop] using h
      rw [if_pos hop]
      rfl
    · have hlen := (hrefused.mp ⟨e, h⟩).resolve_left hop
      obtain rfl : DecodeError.badLength = e := by simpa [decode_badLength hlen.1 hlen.2] using h
      rw [if_neg hop, if_pos hlen]
      rfl

/-- The step of a ready block to which a command word is presented alone. -/
theorem step_of_command_of_ready (hc : s.hostNow.commandAlone) (hr : Ready s) :
    step s = .next (s.beginCycle.acceptWord s.hostNow.cmd) := by
  rw [step_of_command hc hr.2, command_eq_accept, State.accept_of_ready (s := s.beginCycle) hr.1 hr.2]

/-- A refused word moves `FAULT` and nothing else, but that a cycle has gone by (60_exceptions.md R203). -/
theorem step_of_refused_word {e : DecodeError} (hc : s.hostNow.commandAlone) (hr : Ready s)
    (he : decode s.hostNow.cmd = .error e) : step s = .next (s.beginCycle.raise (faultOf e)) := by
  rw [step_of_command_of_ready hc hr, acceptWord_of_error he]

/-- Settles O30: the decoder refuses an operation code above 9. -/
theorem unassignedCodeRaisesIllegalOp : Obligations.UnassignedCodeRaisesIllegalOp := fun _ hc hr hop =>
  ⟨_, step_of_refused_word hc hr (decode_illegalOp hop), rfl, rfl⟩

/-- Settles O31: the decoder refuses a length above 32, and a word with one of these codes has no other fault. -/
theorem lengthAbove32RaisesBadLength : Obligations.LengthAbove32RaisesBadLength := by
  refine fun s hc hr hop => ⟨fun hd => ?_, fun hd => ⟨_, step_of_command_of_ready hc hr, ?_⟩⟩
  · exact ⟨_, step_of_refused_word hc hr (decode_badLength hop hd), rfl, rfl⟩
  · have hassigned : ¬9 < (opField s.hostNow.cmd).toNat := by
      have : (opField s.hostNow.cmd).toNat ∈ [3, 4, 9] := hop
      simp only [List.mem_cons, List.not_mem_nil, or_false] at this
      omega
    rw [acceptWord_fault (s := s.beginCycle) hr.1, if_neg hassigned, if_neg fun h => Nat.not_lt.mpr hd h.2]

end Sys2Proof.Machine
end

section
/-! A clock cycle with a frame in flight (60_exceptions.md R204, R205, R207): the frame moves as it does with no action in
the cycle, and an action in it can do no more than set `FAULT`. -/

namespace Sys2Proof.Machine

variable {s t : State} {op : BusOp}

/-- The cycle of a frame in flight: the host's action judged, then the bus moved or not. -/
theorem step_of_frame (hr : s.hostNow.rst = false) (hb : s.busy = true) :
    step s = if s.hostNow.advance then (overlap s.hostNow s.beginCycle).tick
      else .next (overlap s.hostNow s.beginCycle) := by
  simp [step, cycle, hr, hb]

/-- The same cycle with no host action in it. -/
theorem step_withoutAction_of_frame (hb : s.busy = true) :
    step { s with host := s.hostNow.withoutAction :: s.host.tail } =
      if s.hostNow.advance then s.beginCycle.tick else .next s.beginCycle :=
  step_of_frame (s := { s with host := s.hostNow.withoutAction :: s.host.tail }) rfl hb

/-- A faulted block drops what overlaps a frame (60_exceptions.md R205). -/
theorem overlap_of_fault (c : HostCycle) (hf : s.fault ≠ 0) : overlap c s = s := by
  rw [overlap_eq, if_neg fun h => hf h.2]

/-- An action that overlaps a frame of an unfaulted block raises BadAccess (60_exceptions.md R204). -/
theorem overlap_of_action {c : HostCycle} (hf : s.fault = 0) (hc : 0 < c.strobes) :
    overlap c s = { s with fault := 3 } := by
  rw [overlap_eq, if_pos ⟨hc, hf⟩]

theorem tick_of_inFlight (h : s.inFlight = some op) : s.tick = .next (s.tickOp op) := by
  simp only [State.tick, h]

/-- The sequencer's step does not depend on `FAULT` (60_exceptions.md R207). -/
theorem tick_setFault (f : BitVec 2) (h : s.tick = .next t) :
    State.tick { s with fault := f } = .next { t with fault := f } := by
  obtain ⟨op, hop, rfl⟩ := State.tick_cases h
  obtain ⟨i, -, hi⟩ := State.inFlight_cases hop
  rw [tick_of_inFlight (s := { s with fault := f }) hop, tickOp_fault hi]

/-- The sequencer's step does not touch `FAULT`: setting it to what it was changes nothing. -/
theorem tickOp_keeps_fault (h : s.inFlight = some op) : (s.tickOp op).fault = s.fault := by
  obtain ⟨i, -, hi⟩ := State.inFlight_cases h
  exact congrArg (·.fault) (tickOp_fault hi s.fault s)

/-- A frame in flight moves `FAULT` only by an action that overlaps it. -/
theorem fault_of_step_of_frame (hr : s.hostNow.rst = false) (hb : s.busy = true) (h : step s = .next t) :
    t.fault = if 0 < s.hostNow.strobes ∧ s.fault = 0 then 3 else s.fault := by
  have hoverlap : (overlap s.hostNow s.beginCycle).fault =
      if 0 < s.hostNow.strobes ∧ s.fault = 0 then 3 else s.fault := by rw [overlap_eq]; rfl
  rw [step_of_frame hr hb] at h
  split at h
  · obtain ⟨op, hop, rfl⟩ := State.tick_cases h
    rw [tickOp_keeps_fault hop, hoverlap]
  · obtain rfl : overlap s.hostNow s.beginCycle = t := by simpa using h
    exact hoverlap

/-- Two actions at once raise BadAccess in a ready block, and neither is taken (10_state.md R40). -/
theorem step_of_two_actions (hr : s.hostNow.rst = false) (hready : Ready s) (hc : 1 < s.hostNow.strobes) :
    step s = .next (s.beginCycle.raise .badAccess) := by
  obtain ⟨hf, -⟩ | ⟨-, h⟩ := s.beginCycle.refuseAccess_cases
  · exact absurd hready.1 hf
  · rw [step_of_idle hr hready.2, hostAction, if_pos hc, h]

/-- An action that overlaps a frame leaves the step as it was, but for `FAULT` = 3 (60_exceptions.md R204, R207). -/
theorem step_of_overlap (hr : s.hostNow.rst = false) (hf : s.fault = 0) (hb : s.busy = true)
    (hc : 0 < s.hostNow.strobes)
    (h : step { s with host := s.hostNow.withoutAction :: s.host.tail } = .next t) :
    step s = .next { t with fault := 3 } := by
  rw [step_withoutAction_of_frame hb] at h
  rw [step_of_frame hr hb, overlap_of_action (s := s.beginCycle) hf hc]
  split at h
  · rw [if_pos ‹_›, tick_setFault 3 h]
  · obtain rfl : s.beginCycle = t := by simpa using h
    rw [if_neg ‹_›]

/-- Settles O32: two actions at once in an idle block, and an action on a busy one. -/
theorem overlapRaisesBadAccess : Obligations.OverlapRaisesBadAccess := fun _ hr hf =>
  ⟨fun hb hc => ⟨_, step_of_two_actions hr ⟨hf, hb⟩ hc, rfl, rfl⟩, fun hb hc _ h => step_of_overlap hr hf hb hc h⟩

end Sys2Proof.Machine
end

section
/-! A faulted block (60_exceptions.md R205): with no frame in flight clock cycles go by and nothing else happens, for any
number of cycles without a reset; with one, what overlaps it is dropped. -/

namespace Sys2Proof.Machine

variable {s t : State}

/-- Whatever the host presents, a faulted block drops it. -/
theorem hostAction_of_fault (c : HostCycle) (hf : s.fault ≠ 0) : hostAction c s = .next s := by
  have hrefuse : s.refuseAccess = s := if_pos hf
  simp only [hostAction, hrefuse, command_eq_accept, State.accept_of_fault hf, ite_self]

theorem step_of_fault_of_idle (hf : s.fault ≠ 0) (hb : s.busy = false) (hr : s.hostNow.rst = false) :
    step s = .next s.beginCycle := by
  rw [step_of_idle hr hb, hostAction_of_fault (s := s.beginCycle) _ hf]

/-- A host that never resets does not reset in the next cycle. -/
theorem hostNow_rst_of_forall (h : ∀ c ∈ s.host, c.rst = false) : s.hostNow.rst = false := by
  unfold State.hostNow
  cases hh : s.host with
  | nil => rfl
  | cons c rest => exact h c (by simp [hh])

/-- Only cycles go by, for any number of steps without a reset. -/
theorem run_of_fault_of_idle (k : Nat) (hf : s.fault ≠ 0) (hb : s.busy = false) (h : ∀ c ∈ s.host, c.rst = false) :
    run k s = .next (State.beginCycle^[k] s) := by
  induction k generalizing s with
  | zero => rfl
  | succ k ih =>
    rw [run_succ_of_step (step_of_fault_of_idle hf hb (hostNow_rst_of_forall h)), Function.iterate_succ_apply]
    exact ih hf hb fun c hc => h c (List.mem_of_mem_tail hc)

/-- Cycles that go by change no register but the strobe `done`, and nothing on the bus. -/
theorem beginCycle_iterate_succ (k : Nat) (s : State) :
    (State.beginCycle^[k + 1] s).trace = s.trace ∧ (State.beginCycle^[k + 1] s).slave = s.slave ∧
      (State.beginCycle^[k + 1] s).toBlock = { s.toBlock with done := false } := by
  induction k generalizing s with
  | zero => exact ⟨rfl, rfl, rfl⟩
  | succ k ih => exact ih s.beginCycle

/-- Without a reset the first fault's code stays, in the middle of a frame too. -/
theorem fault_of_step_of_fault (hf : s.fault ≠ 0) (hr : s.hostNow.rst = false) (h : step s = .next t) :
    t.fault = s.fault := by
  by_cases hb : s.busy = true
  · rw [fault_of_step_of_frame hr hb h, if_neg fun hc => hf hc.2]
  · rw [step_of_fault_of_idle hf (by simpa using hb) hr] at h
    obtain rfl : s.beginCycle = t := by simpa using h
    rfl

/-- Settles O35: an idle block only lets cycles go by, a busy one drops what overlaps its frame, and both keep the code. -/
theorem aFaultedBlockIsQuiescent : Obligations.AFaultedBlockIsQuiescent := by
  refine fun s hf => ⟨fun k hb hrst => ?_, fun hb hr => ?_, fun t h hr => ?_⟩
  · exact ⟨_, run_of_fault_of_idle (k + 1) hf hb hrst, beginCycle_iterate_succ k s⟩
  · rw [step_of_frame hr hb, step_withoutAction_of_frame hb, overlap_of_fault (s := s.beginCycle) _ hf]
  · exact fault_of_step_of_fault hf hr h

end Sys2Proof.Machine
end

section
/-! The order of the checks (60_exceptions.md R206): the value of `FAULT` after every step. -/

namespace Sys2Proof.Machine

variable {s t : State}

/-- The order of the checks on what the host presents to a ready block. -/
theorem fault_of_hostAction_of_ready {c : HostCycle} (hready : Ready s) (h : hostAction c s = .next t) :
    t.fault =
      if 1 < c.strobes then 3
      else if c.cmdValid = true ∧ 9 < (opField c.cmd).toNat then 1
      else if c.cmdValid = true ∧ (opField c.cmd).toNat ∈ [3, 4, 9] ∧ 32 < (dField c.cmd).toNat then 2
      else 0 := by
  obtain ⟨hf, hb⟩ := hready
  obtain ⟨hc, rfl⟩ | ⟨hv, hp, ht, hcmd⟩ | ⟨hv, hp, ht, hact⟩ | ⟨hv, hp, ht, hact⟩ | ⟨hc, rfl⟩ := hostAction_cases h
  · simp [State.refuseAccess, hf, hc, BlockFault.code]
  · rw [command_eq_accept, State.accept_of_ready hf hb] at hcmd
    obtain rfl : s.acceptWord c.cmd = t := by simpa using hcmd
    simp only [acceptWord_fault hf, HostCycle.strobes, hv, hp, ht, true_and]
    rfl
  · rw [State.accept_of_ready hf hb] at hact
    obtain rfl : s.writePb c.pbAddr c.pbWdata = t := by simpa using hact
    simp [HostCycle.strobes, hv, hp, ht, hf]
  · rw [State.accept_of_ready hf hb] at hact
    obtain rfl : s.writeTp c.tpWseconds c.tpWsequence = t := by simpa using hact
    simp [HostCycle.strobes, hv, hp, ht, hf]
  · simp [HostCycle.strobes_eq_zero.mp hc, hc, hf]

theorem toBlock_eq_resetKeepingLatches (h : t.toBlock = Block.reset) : t.toBlock = resetKeepingLatches t := by
  rw [resetKeepingLatches, h]

/-- An action overlaps in an idle block only where two come at once. -/
theorem overlaps_iff_of_idle {c : HostCycle} (hb : s.busy = false) :
    (0 < c.strobes ∧ (s.busy = true ∨ 1 < c.strobes)) ↔ 1 < c.strobes := by
  simp only [hb, Bool.false_eq_true, false_or]
  omega

/-- Settles O34: reset first; then a faulted block, which keeps its code; then a frame in flight, where any action is a
BadAccess; then what is presented to a ready block. -/
theorem faultPriority : Obligations.FaultPriority := by
  refine fun s t h => ⟨fun hr => toBlock_eq_resetKeepingLatches (toBlock_of_step_of_rst hr h), ?_⟩
  by_cases hr : s.hostNow.rst = true
  · rw [if_pos hr, toBlock_of_step_of_rst hr h]
    rfl
  rw [if_neg hr]
  rw [Bool.not_eq_true] at hr
  by_cases hf : s.fault = 0
  · rw [if_neg (not_not.mpr hf)]
    by_cases hb : s.busy = true
    · rw [fault_of_step_of_frame hr hb h]
      by_cases hc : 0 < s.hostNow.strobes
      · rw [if_pos ⟨hc, hf⟩, if_pos ⟨hc, .inl hb⟩]
      · have hcmd : s.hostNow.cmdValid = false := (HostCycle.strobes_eq_zero.mp (by omega)).1
        simp [hc, hf, hcmd]
    · rw [Bool.not_eq_true] at hb
      rw [step_of_idle hr hb] at h
      rw [fault_of_hostAction_of_ready (s := s.beginCycle) ⟨hf, hb⟩ h, if_congr (overlaps_iff_of_idle hb) rfl rfl]
      rfl
  · rw [if_pos hf, fault_of_step_of_fault hf hr h]

end Sys2Proof.Machine
end

section
/-! A reset from any state (70_reset_and_hazards.md R230, R232, R233): the frame it cuts and the slave it leaves alone. -/

namespace Sys2Proof.Machine

/-- What a cycle with `rst` = 1 leaves on the bus: `CsnHigh` where a frame is in flight, else nothing (log 15). -/
theorem trace_resetBlock_beginCycle (s : State) :
    s.beginCycle.resetBlock.trace = if s.busy then s.trace ++ [.csnHigh] else s.trace := by
  rw [State.resetBlock_trace, State.beginCycle_busy, State.beginCycle_trace]

/-- What a cycle with `rst` = 1 leaves of the slave: its whole script (log 7, log 15). -/
theorem slave_resetBlock_beginCycle (s : State) : s.beginCycle.resetBlock.slave = s.slave := by
  rw [State.resetBlock_slave, State.beginCycle_slave]

/-- Settles O38: the step is `resetBlock` at the beginning of the cycle, which changes neither `BUSY`, nor the trace, nor
the slave before the reset reads them. -/
theorem resetBeatsEverything : Obligations.ResetBeatsEverything := fun s hr =>
  ⟨s.beginCycle.resetBlock, step_of_rst hr, toBlock_eq_resetKeepingLatches (State.resetBlock_toBlock _),
    slave_resetBlock_beginCycle s, trace_resetBlock_beginCycle s⟩

end Sys2Proof.Machine
end

section
/-! The canonical word (30_encoding.md R92) and the decoder (R95): the round trip, the words of the tables, the two
refusals. -/

namespace Sys2Proof

/-- Settles O1: the twelve words are closed terms, and each arm of the decoder computes. -/
theorem decodeReadsTheSpecsWords : Obligations.DecodeReadsTheSpecsWords :=
  ⟨rfl, rfl, rfl, rfl, rfl, rfl, rfl, rfl, rfl, rfl, rfl, rfl⟩

/-- Settles O2: each row is a packed word as a number. -/
theorem encodeWritesTheCanonicalWords : Obligations.EncodeWritesTheCanonicalWords :=
  ⟨pack_toNat .., fun _ => pack_toNat .., fun _ _ => pack_toNat .., fun _ => pack_toNat .., fun _ => pack_toNat ..,
    pack_toNat .., pack_toNat .., pack_toNat .., pack_toNat .., fun _ _ => pack_toNat ..⟩

/-- A word with a length operand within bounds passes the length check. -/
theorem checkLength_of_lengthOk {n : Byte} (hn : lengthOk n = true) (i : Instr) : checkLength n i = .ok i :=
  if_pos hn

/-- The round trip: each arm of the decoder is found by the operation code and reads its operands back from their
fields. -/
theorem decode_encode {i : Instr} (hw : i.wellFormed = true) : decode (encode i) = .ok i := by
  cases i with
  | stat => exact decode_stat (congrArg BitVec.toNat Laws.OpField.stat)
  | rreg a => rw [decode_rreg (congrArg BitVec.toNat (Laws.OpField.rreg a)), encode, aField_pack]
  | wreg a v => rw [decode_wreg (congrArg BitVec.toNat (Laws.OpField.wreg a v)), encode, aField_pack, dField_pack]
  | rpay n =>
    rw [decode_rpay (congrArg BitVec.toNat (Laws.OpField.rpay n)), encode, dField_pack, checkLength_of_lengthOk hw]
  | wpay n =>
    rw [decode_wpay (congrArg BitVec.toNat (Laws.OpField.wpay n)), encode, dField_pack, checkLength_of_lengthOk hw]
  | flrx => exact decode_flrx (congrArg BitVec.toNat Laws.OpField.flrx)
  | fltx => exact decode_fltx (congrArg BitVec.toNat Laws.OpField.fltx)
  | enc => exact decode_enc (congrArg BitVec.toNat Laws.OpField.enc)
  | dec => exact decode_dec (congrArg BitVec.toNat Laws.OpField.dec)
  | wregm a n =>
    rw [decode_wregm (congrArg BitVec.toNat (Laws.OpField.wregm a n)), encode, aField_pack, dField_pack,
      checkLength_of_lengthOk hw]

theorem decode?_of_ok {w : CmdWord} {i : Instr} (h : decode w = .ok i) : decode? w = some i := by
  simp only [decode?, h]

/-- A command word's number, read at any width that holds it, is that command word. -/
theorem decodeTableWord_toNat {nbits : Nat} (hn : 20 ≤ nbits) (w : CmdWord) :
    decodeTableWord nbits w.toNat = decode? w := by
  have hmod : w.toNat % 2 ^ nbits = w.toNat :=
    Nat.mod_eq_of_lt (w.isLt.trans_le (Nat.pow_le_pow_right (by decide) hn))
  rw [decodeTableWord, tableWord, hmod, if_pos w.isLt, BitVec.ofNat_toNat, BitVec.setWidth_eq]

/-- Settles O3: the round trip on the word itself, and the table number of the word at either width is that word. -/
theorem decodeOfEncodeIsTheInstruction : Obligations.DecodeOfEncodeIsTheInstruction := fun i hw => by
  have h := decode_encode hw
  rw [decodeTableWord_toNat (by decide), decodeTableWord_toNat (by decide), decode?_of_ok h]
  exact ⟨h, rfl, rfl⟩

/-- Settles O4: the decoder by operation code, its two refusals, and two words of STAT. -/
theorem decodingIsTotalWithNamedRefusals : Obligations.DecodingIsTotalWithNamedRefusals := by
  refine ⟨fun w => ⟨decode_illegalOp, fun hop hd => ?_, decode_stat,
    decode_rreg, decode_wreg, fun hop hd => ?_, fun hop hd => ?_, decode_flrx, decode_fltx, decode_enc, decode_dec,
    fun hop hd => ?_, fun _ => decode_wellFormed⟩, 0x00000, 0x00001, .stat, by decide, rfl, rfl⟩
  · exact decode_badLength (by simp only [List.mem_cons, List.not_mem_nil, or_false]; exact hop) hd
  · exact (decode_rpay hop).trans (checkLength_eq_ok.mpr ⟨hd, rfl⟩)
  · exact (decode_wpay hop).trans (checkLength_eq_ok.mpr ⟨hd, rfl⟩)
  · exact (decode_wregm hop).trans (checkLength_eq_ok.mpr ⟨hd, rfl⟩)

end Sys2Proof
end

section
/-! The register command bytes (30_encoding.md R86): the base's three bits above the five low bits of the address. -/

namespace Sys2Proof.Machine

/-- The mask `REG_ADDR_MASK` keeps the low five bits of an address. -/
theorem and_regAddrMask_toNat (a : Byte) : (a &&& Config.REG_ADDR_MASK).toNat = (a.extractLsb' 0 5).toNat :=
  Nat.and_two_pow_sub_one_eq_mod a.toNat 5

theorem rcmd_eq_append (a : Byte) : rcmd a = 0b000#3 ++ a.extractLsb' 0 5 := by
  apply BitVec.eq_of_toNat_eq
  rw [rcmd, BitVec.toNat_or, and_regAddrMask_toNat, BitVec.toNat_append]
  rfl

theorem wcmd_eq_append (a : Byte) : wcmd a = 0b001#3 ++ a.extractLsb' 0 5 := by
  apply BitVec.eq_of_toNat_eq
  rw [wcmd, BitVec.toNat_or, and_regAddrMask_toNat, BitVec.toNat_append]
  rfl

theorem rcmd_toNat (a : Byte) : (rcmd a).toNat = (a.extractLsb' 0 5).toNat := by
  rw [rcmd_eq_append, BitVec.toNat_append, ← Nat.shiftLeft_add_eq_or_of_lt (BitVec.isLt _)]
  simp

theorem wcmd_toNat (a : Byte) : (wcmd a).toNat = 0x20 + (a.extractLsb' 0 5).toNat := by
  rw [wcmd_eq_append, BitVec.toNat_append, ← Nat.shiftLeft_add_eq_or_of_lt (BitVec.isLt _)]
  rfl

theorem wcmd_eq_rcmd_add (a : Byte) : wcmd a = rcmd a + 0x20 := by
  apply BitVec.eq_of_toNat_eq
  have hlow := (a.extractLsb' 0 5).isLt
  rw [BitVec.toNat_add, wcmd_toNat, rcmd_toNat, show (0x20 : Byte).toNat = 0x20 from rfl]
  omega

/-- Settles O6: the two patterns, and the ranges and the distance read off the five low bits as a number. -/
theorem registerCommandBytes : Obligations.RegisterCommandBytes := fun a => by
  have hlow := (a.extractLsb' 0 5).isLt
  have hr := rcmd_toNat a
  have hw := wcmd_toNat a
  exact ⟨rfl, rfl, rcmd_eq_append a, wcmd_eq_append a, by omega, by omega, by omega, wcmd_eq_rcmd_add a⟩

end Sys2Proof.Machine
end

section
/-! The codec (42_packet_codec.md R152, R156): what one direction does to the other's result. -/

namespace Sys2Proof.Machine

theorem decodePacket_encodePacket (p : TimePacket) : decodePacket (encodePacket p) = p := by
  simp only [decodePacket, encodePacket_getElem_zero, encodePacket_getElem_one, encodePacket_getElem_two,
    halves_append]

/-- Encoding what was decoded keeps the three coded bytes and clears the padding. -/
theorem encodePacket_decodePacket_getElem (b : Payload) (i : Nat) (h : i < 32) :
    (encodePacket (decodePacket b))[i] = if i < 3 then b[i] else 0x00 := by
  match i, h with
  | 0, _ => exact (encodePacket_getElem_zero _).trans (append_high ..)
  | 1, _ => exact (encodePacket_getElem_one _).trans (append_low ..)
  | 2, _ => exact encodePacket_getElem_two _
  | k + 3, h =>
    rw [if_neg (by omega)]
    exact encodePacket_getElem_padding _ k h

theorem encodePacket_decodePacket_eq_iff (b : Payload) :
    encodePacket (decodePacket b) = b ↔ ∀ (i : Nat) (h : i < 32), 3 ≤ i → b[i] = 0x00 := by
  constructor
  · intro heq i h hi
    rw [← heq]
    exact encodePacket_getElem_of_three_le _ i h hi
  · intro hpad
    ext1 i h
    rw [encodePacket_decodePacket_getElem]
    split
    · rfl
    · exact (hpad i h (by omega)).symm

/-- Two buffers that differ in their last byte only decode alike. -/
theorem decodePacket_not_injective : ∃ b b' : Payload, b ≠ b' ∧ decodePacket b = decodePacket b' :=
  ⟨Block.reset.pb, Block.reset.pb.write 31 0xFF, by decide, by decide⟩

theorem encodePacket_first_bytes (x y z : Byte) :
    let p := encodePacket { seconds := x ++ y, sequence := z }
    p[0] = x ∧ p[1] = y ∧ p[2] = z :=
  ⟨(encodePacket_getElem_zero _).trans (append_high ..), (encodePacket_getElem_one _).trans (append_low ..),
    encodePacket_getElem_two _⟩

/-- Settles O26: the five laws in the order of R152; injectivity and ontoness follow from the round trip. -/
theorem codecLaws : Obligations.CodecLaws :=
  ⟨decodePacket_encodePacket, encodePacket_getElem_of_three_le,
    fun b => ⟨encodePacket_decodePacket_eq_iff b, encodePacket_decodePacket_getElem b⟩,
    ⟨decodePacket_not_injective, Function.LeftInverse.injective decodePacket_encodePacket,
      Function.LeftInverse.surjective decodePacket_encodePacket⟩,
    fun x y z => ⟨_, encodePacket_first_bytes x y z⟩⟩

/-- What a relay sends: the three coded bytes of the buffer and zeros after them. -/
theorem encodePacket_decodePacket_toList (b : Payload) :
    (encodePacket (decodePacket b)).toList = b.toList.take 3 ++ List.replicate 29 0x00 := by
  apply List.ext_getElem
  · simp
  · intro i h1 h2
    have hi : i < 32 := by simpa using h1
    rw [Vector.getElem_toList, encodePacket_decodePacket_getElem b i hi, List.getElem_append]
    by_cases h : i < 3
    · simp [h]
    · rw [if_neg h, dif_neg (by simpa using h), List.getElem_replicate]

/-- ENC or DEC, and then the other one, in a ready block. -/
theorem exec_codec_twice {s : State} {i j : Instr} (hi : i = .enc ∨ i = .dec) (hr : Ready s) :
    exec i s = .next (s.perform i) ∧ exec j (s.perform i) = .next ((s.perform i).perform j) := by
  obtain ⟨hfault, hbusy, -, -⟩ := perform_codec_keeps (s := s) hi
  exact ⟨exec_of_ready hr.1 hr.2 i, exec_of_ready (hfault.trans hr.1) (hbusy.trans hr.2) j⟩

/-- Settles O27: ENC leaves `TP` encoded in `PB`, DEC leaves `PB` decoded in `TP`; the codec's laws say the rest. -/
theorem codecOperationsCompose : Obligations.CodecOperationsCompose := fun s hr => by
  obtain ⟨henc, hdec⟩ := exec_codec_twice (i := .enc) (j := .dec) (.inl rfl) hr
  obtain ⟨hdec', henc'⟩ := exec_codec_twice (i := .dec) (j := .enc) (.inr rfl) hr
  exact ⟨⟨_, _, henc, hdec, decodePacket_encodePacket s.tp⟩,
    _, _, hdec', henc', encodePacket_decodePacket_toList s.pb⟩

end Sys2Proof.Machine
end

section
/-! All operations at once: when they are taken (10_state.md R36), what they write (R25, R26) and what they put on the
bus (30_encoding.md R91). -/

namespace Sys2Proof.Machine

/-- Settles O17: an operation that is not taken is dropped or refused by `accept`. -/
theorem commandsAreTakenOnlyWhenReady : Obligations.CommandsAreTakenOnlyWhenReady := fun i s => by
  rw [exec_eq_accept]
  exact ⟨fun hf => State.accept_of_fault hf _, fun hf hb => State.accept_of_busy hf hb _⟩

theorem Payload.firstBytes_one (pb : Payload) : pb.firstBytes 1 = [pb[0]] := by
  rw [Payload.firstBytes, List.take_one, List.head?_eq_getElem?, Vector.getElem?_toList, Vector.getElem?_eq_getElem]
  rfl

theorem wregmOp_one (a : Byte) (pb : Payload) : wregmOp a 1 pb = wregOp a pb[0] := by
  rw [wregmOp, wregOp, ← Payload.firstBytes_one]
  rfl

/-- Settles O22: the two operations, once accepted, are one bus operation performed whole. -/
theorem wregmOfOneByteIsWreg : Obligations.WregmOfOneByteIsWreg := fun a s => by
  have hperform : s.perform (.wregm a 1) = s.perform (.wreg a s.pb[0]) :=
    congrArg s.performBus (wregmOp_one a s.pb)
  rw [exec_eq_accept, exec_eq_accept, State.accept, State.accept, hperform]

section busOps

variable {i : Instr} {pb : Payload} {op : BusOp}

/-- The table of 10_state.md R26 by columns, for the operations with a frame. -/
theorem commit_writes (h : busOpOf i pb = some op) (b : Byte) (l : List Byte) (s : State) :
    ((op.commit b l s).rdata = s.rdata ∨ ∃ a, i = .rreg a) ∧
    ((op.commit b l s).status = s.status ∨ i = .stat ∨ (∃ a v, i = .wreg a v) ∨ ∃ a n, i = .wregm a n) ∧
    ((op.commit b l s).pb = s.pb ∨ ∃ n, i = .rpay n) := by
  cases i <;> simp only [busOpOf, Option.some.injEq, reduceCtorEq] at h <;> subst h <;>
    simp [statOp, rregOp, wregOp, wregmOp, rpayOp, wpayOp, flrxOp, fltxOp]

/-- `OK` is 0 after a register write whose command-phase byte fails the check, else 1 (10_state.md R25). -/
theorem commit_ok (h : busOpOf i pb = some op) (b : Byte) (l : List Byte) (s : State) :
    (op.commit b l s).ok = false ↔
      ((∃ a v, i = .wreg a v) ∨ ∃ a n, i = .wregm a n) ∧ (op.commit b l s).status &&& 0x20 ≠ 0 := by
  cases i <;> simp only [busOpOf, Option.some.injEq, reduceCtorEq] at h <;> subst h <;>
    simp [statOp, rregOp, wregOp, wregmOp, rpayOp, wpayOp, flrxOp, fltxOp, writeOk]

theorem rcmd_toNat_le (a : Byte) : (rcmd a).toNat ≤ 0x3F := by
  have hlow := (a.extractLsb' 0 5).isLt
  rw [rcmd_toNat]
  omega

theorem wcmd_toNat_le (a : Byte) : (wcmd a).toNat ≤ 0x3F := by
  have hlow := (a.extractLsb' 0 5).isLt
  rw [wcmd_toNat]
  omega

/-- The command bytes of the operations with a frame (30_encoding.md R91). -/
theorem busOpOf_cmd (h : busOpOf i pb = some op) :
    op.cmd.toNat ≤ 0x3F ∨ op.cmd = Config.CMD_NOP ∨ op.cmd = Config.CMD_R_RX_PAYLOAD ∨
      op.cmd = Config.CMD_W_TX_PAYLOAD ∨ op.cmd = Config.CMD_FLUSH_RX ∨ op.cmd = Config.CMD_FLUSH_TX := by
  cases i <;> simp only [busOpOf, Option.some.injEq, reduceCtorEq] at h <;> subst h
  case rreg a => exact .inl (rcmd_toNat_le a)
  case wreg a v => exact .inl (wcmd_toNat_le a)
  case wregm a n => exact .inl (wcmd_toNat_le a)
  all_goals simp [statOp, rpayOp, wpayOp, flrxOp, fltxOp]

end busOps

section performed

variable {s : State} {i : Instr} {op : BusOp}

/-- What a bus operation performed whole writes (10_state.md R26): what it commits, and its frame writes no register. -/
theorem performBus_writes (hop : busOpOf i s.pb = some op) :
    ((s.performBus op).rdata = s.rdata ∨ ∃ a, i = .rreg a) ∧
    ((s.performBus op).status = s.status ∨ i = .stat ∨ (∃ a v, i = .wreg a v) ∨ ∃ a n, i = .wregm a n) ∧
    ((s.performBus op).pb = s.pb ∨ ∃ n, i = .rpay n) := by
  have hwrites := commit_writes hop (s.frame op.cmd op.out).s0 (s.frame op.cmd op.out).din
    (s.frame op.cmd op.out).after
  rwa [frame_toBlock] at hwrites

/-- What an operation of the table may write, from the state before it to the state after (10_state.md R26), and that it
moves nothing of the sequencer and of the model's bookkeeping. -/
def WritesOnlyItsRegisters (i : Instr) (s t : State) : Prop :=
  (t.rdata = s.rdata ∨ ∃ a, i = .rreg a) ∧
  (t.status = s.status ∨ i = .stat ∨ (∃ a v, i = .wreg a v) ∨ ∃ a n, i = .wregm a n) ∧
  (t.pb = s.pb ∨ i = .enc ∨ ∃ n, i = .rpay n) ∧
  (t.tp = s.tp ∨ i = .dec) ∧
  t.toBlock = { s.toBlock with
    pb := t.pb, tp := t.tp, rdata := t.rdata, status := t.status, ok := t.ok, fault := t.fault, done := t.done
    csn := t.csn, sck := t.sck, mosi := t.mosi } ∧
  t.host = s.host ∧ t.clock = s.clock ∧ t.grain = s.grain

theorem writesOnlyItsRegisters_refl (i : Instr) (s : State) : WritesOnlyItsRegisters i s s :=
  ⟨.inl rfl, .inl rfl, .inl rfl, .inl rfl, rfl, rfl, rfl, rfl⟩

theorem writesOnlyItsRegisters_raise (i : Instr) (s : State) (f : BlockFault) :
    WritesOnlyItsRegisters i s (s.raise f) :=
  ⟨.inl rfl, .inl rfl, .inl rfl, .inl rfl, rfl, rfl, rfl, rfl⟩

theorem writesOnlyItsRegisters_performBus (hop : busOpOf i s.pb = some op) :
    WritesOnlyItsRegisters i s (s.performBus op) := by
  have hcommits := busOpOf_commits hop
  obtain ⟨hrdata, hstatus, hpb⟩ := performBus_writes hop
  have hblock := performBus_toBlock s hcommits
  refine ⟨hrdata, hstatus, hpb.imp_right .inr, .inl (by rw [hblock]), ?_, ?_, ?_, ?_⟩
  · rw [hblock]
  · rw [performBus_eq, State.complete_host, hcommits.host, frame_host]
  · rw [performBus_eq, State.complete_clock, hcommits.clock, frame_clock]
  · rw [performBus_eq, State.complete_grain, hcommits.grain, frame_grain]

theorem writesOnlyItsRegisters_perform (i : Instr) (s : State) : WritesOnlyItsRegisters i s (s.perform i) := by
  obtain ⟨-, h⟩ | ⟨-, op, hop, h⟩ | ⟨rfl, h⟩ | ⟨rfl, h⟩ := perform_cases s i <;> rw [h]
  · exact writesOnlyItsRegisters_raise i s _
  · exact writesOnlyItsRegisters_performBus hop
  · simp [WritesOnlyItsRegisters, State.complete]
  · simp [WritesOnlyItsRegisters, State.complete]

/-- Settles O18: dropped, refused with BadAccess, or performed, an operation writes only its registers. -/
theorem registersAreWrittenOnlyByTheirOperations : Obligations.RegistersAreWrittenOnlyByTheirOperations := by
  intro i s t h
  obtain ⟨-, rfl⟩ | ⟨-, -, rfl⟩ | ⟨-, -, rfl⟩ := exec_cases h
  · exact writesOnlyItsRegisters_refl i _
  · exact writesOnlyItsRegisters_raise i s _
  · exact writesOnlyItsRegisters_perform i s

/-- No operation moves `BUSY`, performed whole. -/
theorem perform_busy (i : Instr) (s : State) : (s.perform i).busy = s.busy := by
  obtain ⟨-, -, -, -, hblock, -⟩ := writesOnlyItsRegisters_perform i s
  rw [hblock]

/-- A well-formed operation performed whole completes, and `OK` is 0 exactly after a register write that failed. -/
theorem perform_completes (hw : i.wellFormed = true) :
    (s.perform i).done = true ∧
    ((s.perform i).ok = false ↔
      ((∃ a v, i = .wreg a v) ∨ ∃ a n, i = .wregm a n) ∧ (s.perform i).status &&& 0x20 ≠ 0) := by
  obtain ⟨hw', -⟩ | ⟨-, op, hop, h⟩ | ⟨rfl, h⟩ | ⟨rfl, h⟩ := perform_cases s i
  · simp [hw] at hw'
  · rw [h]
    exact ⟨rfl, commit_ok hop _ _ _⟩
  · simp [h]
  · simp [h]

/-- Settles O19: a ready block performs the operation, which completes and raises no fault. -/
theorem onlyAFailedRegisterWriteClearsOk : Obligations.OnlyAFailedRegisterWriteClearsOk := by
  intro i s t hr hw h
  obtain rfl : s.perform i = t := by simpa [exec_of_ready hr.1 hr.2] using h
  exact ⟨⟨(perform_fault hw).trans hr.1, (perform_busy i s).trans hr.2⟩, perform_completes hw⟩

theorem isTxDone_iff (b : Byte) : isTxDone b = true ↔ b &&& 0x20 ≠ 0 := bne_iff_ne

/-- Settles O21: the failed write of O19 is the one whose status byte has the transmit-done bit. -/
theorem transmitDoneMakesEveryWriteFail : Obligations.TransmitDoneMakesEveryWriteFail := by
  intro a v n s t hr hn h
  have hok : t.ok = false ↔ t.status &&& 0x20 ≠ 0 := by
    obtain h | h := h
    · obtain ⟨-, -, hok⟩ := onlyAFailedRegisterWriteClearsOk (.wreg a v) s t hr rfl h
      simpa using hok
    · obtain ⟨-, -, hok⟩ := onlyAFailedRegisterWriteClearsOk (.wregm a n) s t hr ((lengthOk_iff n).mpr hn) h
      simpa using hok
  rw [← isTxDone_iff] at hok
  cases hk : t.ok <;> simp_all

/-- A well-formed bus operation sends at most 32 data bytes, as its canonical word decodes to it. -/
theorem busOp_length_le_of_wellFormed (hw : i.wellFormed = true) {pb : Payload} (hop : busOpOf i pb = some op) :
    op.out.length ≤ 32 :=
  busOp_length_le (decode_encode hw) hop

/-- What a performed operation puts on the bus: nothing, or the whole frame of a bus operation. -/
theorem perform_trace_cases (s : State) (i : Instr) :
    (s.perform i).trace = s.trace ∨
      ∃ op, busOpOf i s.pb = some op ∧ op.out.length ≤ 32 ∧ ∃ (s0 : Byte) (din : List Byte),
        din.length = op.out.length ∧ (s.perform i).trace = s.trace ++ bracket op.cmd s0 op.out din := by
  obtain ⟨-, h⟩ | ⟨hw, op, hop, h⟩ | ⟨hi, -⟩ | ⟨hi, -⟩ := perform_cases s i
  · exact .inl (by rw [h, State.raise_trace])
  · obtain ⟨hlen, -, htrace⟩ := performBus_frameSent s (busOpOf_commits hop)
    exact .inr ⟨op, hop, busOp_length_le_of_wellFormed hw hop, _, _, hlen, by rw [h, htrace]⟩
  · obtain ⟨-, -, htrace, -⟩ := perform_codec_keeps (s := s) (.inl hi)
    exact .inl htrace
  · obtain ⟨-, -, htrace, -⟩ := perform_codec_keeps (s := s) (.inr hi)
    exact .inl htrace

/-- Settles O20: an operation that is not taken puts nothing on the bus, one that is performed nothing or its frame. -/
theorem everyFrameBeginsWithAKnownCommandByte : Obligations.EveryFrameBeginsWithAKnownCommandByte := by
  intro i s t h
  obtain ⟨-, rfl⟩ | ⟨-, -, rfl⟩ | ⟨-, -, rfl⟩ := exec_cases h
  · exact .inl rfl
  · exact .inl rfl
  · refine (perform_trace_cases s i).imp_right ?_
    rintro ⟨op, hop, hout, s0, din, hlen, htrace⟩
    exact ⟨op.cmd, s0, op.out, din, busOpOf_cmd hop, hout, hlen, htrace⟩

end performed

/-- Settles O43: a frame, event by event and register by register. -/
theorem aFrameIsOneBracket : Obligations.AFrameIsOneBracket := fun s c out =>
  ⟨⟨frame_din_length .., frame_slaveGives .., frame_trace ..⟩, by rw [frame_slave, Nat.add_comm], frame_toBlock ..,
    frame_host .., frame_clock .., frame_grain ..⟩

end Sys2Proof.Machine
end

section
/-! One cycle of a block that is not busy: the operation the word decodes to is run or its frame begun (10_state.md R36,
20_memory.md R70), a host's write is made (R38, R39), and the ports show the registers (R37). -/

namespace Sys2Proof.Machine

variable {s t : State} {w : CmdWord} {i : Instr}

/-- At the operation level a word that decodes is its operation. -/
theorem command_of_operation_level (hg : s.grain = .operation) (h : decode w = .ok i) : command w s = exec i s := by
  simp only [command, h, perform, hg]

/-- ENC and DEC have no frame to begin, so at every level the word is its operation. -/
theorem command_of_codec (hi : i = .enc ∨ i = .dec) (h : decode w = .ok i) : command w s = exec i s := by
  simp only [command, h, perform]
  obtain rfl | rfl := hi <;> cases s.grain <;> rfl

theorem decode_of_decodeTableWord {nbits n : Nat} (h : decodeTableWord nbits n = some i) :
    decode (tableWord nbits n) = .ok i := by
  unfold decodeTableWord decode? at h
  split at h
  · split at h
    · simp_all
    · cases h
  · cases h

/-- Settles O28: the step is the command alone in its cycle, and at the operation level that is the operation. -/
theorem stepRunsTheDecodedInstruction : Obligations.StepRunsTheDecodedInstruction := by
  refine ⟨fun s i hc hb hg hi => ?_, fun s w i hb hi => ?_⟩
  · rw [step_of_command hc hb, command_of_operation_level (s := s.beginCycle) hg hi]
    rfl
  · have hc : (s.withFetchWord 24 w).hostNow.commandAlone := ⟨rfl, rfl, rfl, rfl⟩
    have hword : decode (s.withFetchWord 24 w).hostNow.cmd = .ok i := decode_of_decodeTableWord hi
    rw [step_of_command hc hb, command_of_operation_level (s := (s.withFetchWord 24 w).beginCycle) rfl hword]
    rfl

theorem busOpOf_isSome (hne : i ≠ .enc) (hnd : i ≠ .dec) (pb : Payload) : (busOpOf i pb).isSome = true := by
  cases i <;> simp_all [busOpOf]

/-- Below the operation level a word that stands for a bus operation begins its frame. -/
theorem acceptWord_of_busOp (hg : s.grain ≠ .operation) (h : decode w = .ok i)
    (hop : (busOpOf i s.pb).isSome = true) : s.acceptWord w = s.start w := by
  simp only [State.acceptWord, h]
  rw [if_pos ⟨hg, hop⟩]

/-- The registers and the trace as a frame begins (10_state.md R27, R28; 20_memory.md R54). -/
theorem start_toBlock (s : State) (w : CmdWord) : (s.start w).toBlock = { s.toBlock with
    busy := true, csn := false, cur := w, idx := 0, ph := .command, s0 := 0, din := [], shift := 0, bitCount := 0
    shifting := false } := rfl

theorem start_trace (s : State) (w : CmdWord) : (s.start w).trace = s.trace ++ [.csnLow] := rfl

/-- Settles O29: a word taken below the operation level begins its frame, or is ENC or DEC and runs whole. -/
theorem stepBeginsAFrameBelowOperationLevel : Obligations.StepBeginsAFrameBelowOperationLevel := by
  refine fun s i hc hr hg hi => ⟨fun hne hnd => ?_, fun hcodec => ?_⟩
  · refine ⟨s.beginCycle.start s.hostNow.cmd, ?_, start_trace .., start_toBlock ..⟩
    rw [step_of_command_of_ready hc hr,
      acceptWord_of_busOp (s := s.beginCycle) hg hi (busOpOf_isSome hne hnd _)]
  · rw [step_of_command hc hr.2, command_of_codec hcodec hi]
    rfl

/-! ### The host's ports -/

/-- A buffer write alone in its cycle is the action the block takes or drops (10_state.md R38). -/
theorem hostAction_of_pbWe {c : HostCycle} (hp : c.pbWe = true) (hv : c.cmdValid = false) (ht : c.tpWe = false) :
    hostAction c s = s.accept fun s => s.writePb c.pbAddr c.pbWdata := by
  simp [hostAction, HostCycle.strobes, hp, hv, ht]

/-- A TimePacket write alone in its cycle is the action the block takes or drops (10_state.md R39). -/
theorem hostAction_of_tpWe {c : HostCycle} (ht : c.tpWe = true) (hv : c.cmdValid = false) (hp : c.pbWe = false) :
    hostAction c s = s.accept fun s => s.writeTp c.tpWseconds c.tpWsequence := by
  simp [hostAction, HostCycle.strobes, hp, hv, ht]

/-- Settles O39: the write taken or dropped, and a write of the buffer index by index. -/
theorem bufferPortWritesOneByte : Obligations.BufferPortWritesOneByte := by
  intro s hr hp hv ht hb
  by_cases hf : s.fault = 0
  · refine ⟨s.beginCycle.writePb s.hostNow.pbAddr s.hostNow.pbWdata, ?_, rfl, fun h => absurd hf h,
      fun _ => ⟨rfl, Payload.write_getElem s.pb _ _⟩⟩
    rw [step_of_idle hr hb, hostAction_of_pbWe hp hv ht, State.accept_of_ready (s := s.beginCycle) hf hb]
  · exact ⟨_, step_of_fault_of_idle hf hb hr, rfl, fun _ => rfl, fun h => absurd h hf⟩

/-- Settles O40: the write taken or dropped. -/
theorem timePacketPortWritesBothFields : Obligations.TimePacketPortWritesBothFields := by
  intro s hr ht hv hp hb
  by_cases hf : s.fault = 0
  · refine ⟨s.beginCycle.writeTp s.hostNow.tpWseconds s.hostNow.tpWsequence, ?_, rfl, fun h => absurd hf h,
      fun _ => rfl⟩
    rw [step_of_idle hr hb, hostAction_of_tpWe ht hv hp, State.accept_of_ready (s := s.beginCycle) hf hb]
  · exact ⟨_, step_of_fault_of_idle hf hb hr, rfl, fun _ => rfl, fun h => absurd h hf⟩

/-- Settles O41: the exact ports are read off; the others are their registers when `BUSY` = 0, the status wires bit by
bit. -/
theorem resultPortsShowTheRegisters : Obligations.ResultPortsShowTheRegisters := by
  refine fun s a => ⟨rfl, rfl, rfl, rfl, rfl, rfl, rfl, rfl, fun hb => ?_⟩
  obtain ⟨hrx, htx, hmax⟩ := outputs_status_wires hb a
  rw [hrx, htx, hmax, isDataAvailable_eq_bit, isTxDone_eq_bit, isMaxRetries_eq_bit]
  simp [State.outputs, hb, Payload.read]

/-- Settles O36: without a reset the code of a fault stays, and a reset writes 0. -/
theorem onlyResetClearsAFault : Obligations.OnlyResetClearsAFault := by
  intro s t h hf hne
  by_cases hr : s.hostNow.rst = true
  · refine ⟨hr, ?_⟩
    rw [toBlock_of_step_of_rst hr h]
    rfl
  · exact absurd (fault_of_step_of_fault hf (by simpa using hr) h) hne

end Sys2Proof.Machine
end

section
/-! What one step can do, said once for a frame in flight and once for an idle block (20_memory.md R70, 10_state.md
R36), and what follows for the trace (20_memory.md R61), the results (R69), the strobe `done` (10_state.md R41) and a
run with a fault in it (60_exceptions.md R207). -/

namespace Sys2Proof.Machine

/-! ### A frame in flight -/

/-- `t` is `s` with its frame in flight still: no result, no `BUSY`, no `done` and no `CUR` has moved, the host's inputs
are those of `s`, and the trace holds what it held. -/
structure FrameGoesOn (s t : State) : Prop where
  block : t.toBlock = { s.toBlock with
    fault := t.fault, csn := t.csn, sck := t.sck, mosi := t.mosi, idx := t.idx, ph := t.ph, s0 := t.s0, din := t.din
    shift := t.shift, bitCount := t.bitCount, shifting := t.shifting }
  host : t.host = s.host
  trace : s.trace <+: t.trace

/-- `t` is `s` with its frame closed: `BUSY` is 0 and `done` is 1. -/
structure FrameEnds (s t : State) : Prop where
  busy : t.busy = false
  done : t.done = true
  host : t.host = s.host
  trace : s.trace <+: t.trace

section frame

variable {s t : State} {op : BusOp} {m : Byte} {after : Byte → State → State}

/-- An exchange, whole or one step of it, keeps the frame in flight, if what follows it does. -/
theorem exchangeTick_frameGoesOn (hafter : ∀ b t, FrameGoesOn s t → FrameGoesOn s (after b t)) :
    FrameGoesOn s (s.exchangeTick m after) := by
  obtain ⟨-, h⟩ | ⟨-, -, h⟩ | ⟨-, -, -, h⟩ | ⟨-, -, -, -, h⟩ | ⟨-, -, -, -, h⟩ :=
    exchangeTick_cases s m after <;> rw [h]
  · exact hafter _ _ ⟨rfl, rfl, List.prefix_append ..⟩
  · exact ⟨rfl, rfl, List.prefix_rfl⟩
  · exact ⟨rfl, rfl, List.prefix_rfl⟩
  · exact ⟨rfl, rfl, List.prefix_rfl⟩
  · exact hafter _ _ ⟨rfl, rfl, List.prefix_append ..⟩

theorem afterCommand_frameGoesOn (op : BusOp) (b : Byte) (t : State) (h : FrameGoesOn s t) :
    FrameGoesOn s (afterCommand op b t) := by
  refine ⟨?_, h.host, h.trace⟩
  have hblock : (afterCommand op b t).toBlock =
      { t.toBlock with s0 := (afterCommand op b t).s0, ph := (afterCommand op b t).ph } := rfl
  rw [hblock, h.block]

theorem afterData_frameGoesOn (op : BusOp) (b : Byte) (t : State) (h : FrameGoesOn s t) :
    FrameGoesOn s (afterData op b t) := by
  refine ⟨?_, h.host, h.trace⟩
  have hblock : (afterData op b t).toBlock = { t.toBlock with
      din := (afterData op b t).din, idx := (afterData op b t).idx, ph := (afterData op b t).ph } := rfl
  rw [hblock, h.block]

/-- The last act closes the frame (20_memory.md R70). -/
theorem finish_frameEnds (hop : op.Commits) (s : State) : FrameEnds s (s.finish op) where
  busy := rfl
  done := rfl
  host := hop.host s.s0 s.din s.csnHigh
  trace := by
    have htrace : (s.finish op).trace = s.trace ++ [.csnHigh] := hop.trace s.s0 s.din s.csnHigh
    rw [htrace]
    exact List.prefix_append ..

/-- The sequencer's step keeps the frame in flight or closes it. -/
theorem tickOp_goesOn_or_ends (hop : op.Commits) (s : State) :
    FrameGoesOn s (s.tickOp op) ∨ FrameEnds s (s.tickOp op) := by
  obtain ⟨-, h⟩ | ⟨-, h⟩ | ⟨-, h⟩ | ⟨-, h⟩ := tickOp_cases s op <;> rw [h]
  · exact .inl ⟨rfl, rfl, List.prefix_append ..⟩
  · exact .inl (exchangeTick_frameGoesOn (afterCommand_frameGoesOn op))
  · exact .inl (exchangeTick_frameGoesOn (afterData_frameGoesOn op))
  · exact .inr (finish_frameEnds hop s)

theorem overlap_frameGoesOn (c : HostCycle) (s : State) : FrameGoesOn s (overlap c s) := by
  rw [overlap_eq]
  exact ⟨rfl, rfl, List.prefix_rfl⟩

theorem FrameGoesOn.trans {u : State} (h : FrameGoesOn s t) (h' : FrameGoesOn t u) : FrameGoesOn s u :=
  ⟨by rw [h'.block, h.block], h'.host.trans h.host, h.trace.trans h'.trace⟩

theorem FrameEnds.of_goesOn {u : State} (h : FrameGoesOn s t) (h' : FrameEnds t u) : FrameEnds s u :=
  ⟨h'.busy, h'.done, h'.host.trans h.host, h.trace.trans h'.trace⟩

/-- The operation in flight commits registers of the block and nothing around it. -/
theorem inFlight_commits (h : s.inFlight = some op) : op.Commits := by
  obtain ⟨i, -, hi⟩ := State.inFlight_cases h
  exact busOpOf_commits hi

/-- A clock cycle with a frame in flight: the frame goes on or ends, whatever the host presents. -/
theorem step_of_frame_goesOn_or_ends (hr : s.hostNow.rst = false) (hb : s.busy = true) (h : step s = .next t) :
    FrameGoesOn s.beginCycle t ∨ FrameEnds s.beginCycle t := by
  have hoverlap := overlap_frameGoesOn s.hostNow s.beginCycle
  rw [step_of_frame hr hb] at h
  split at h
  · obtain ⟨op, hop, rfl⟩ := State.tick_cases h
    exact (tickOp_goesOn_or_ends (inFlight_commits hop) _).imp hoverlap.trans (FrameEnds.of_goesOn hoverlap)
  · obtain rfl : overlap s.hostNow s.beginCycle = t := by simpa using h
    exact .inl hoverlap

end frame

/-! ### An idle block -/

/-- In this cycle the block takes the operation `i`: it is unfaulted and the host presents a word alone that decodes to
`i` (10_state.md R36). -/
structure TakesOperation (c : HostCycle) (s : State) (i : Instr) : Prop where
  unfaulted : s.fault = 0
  alone : c.cmdValid = true ∧ c.pbWe = false ∧ c.tpWe = false
  decodes : decode c.cmd = .ok i

section idle

variable {c : HostCycle} {s t : State}

/-- What a cycle of an idle block does: it takes an operation, performed whole or begun, or no operation is taken and at
most `FAULT` or one of the host's registers is written. -/
theorem hostAction_cases_of_idle (hb : s.busy = false) (h : hostAction c s = .next t) :
    ((∀ i, ¬TakesOperation c s i) ∧ (t = s ∨ (∃ f, t = s.raise f) ∨ (∃ a v, t = s.writePb a v) ∨
      ∃ x y, t = s.writeTp x y)) ∨
    ∃ i, TakesOperation c s i ∧ (t = s.perform i ∨ ∃ op, busOpOf i s.pb = some op ∧ t = s.start c.cmd) := by
  by_cases hf : s.fault = 0
  · obtain ⟨hc, rfl⟩ | ⟨hv, hp, ht, hcmd⟩ | ⟨hv, -, -, hact⟩ | ⟨hv, -, -, hact⟩ | ⟨hc, rfl⟩ := hostAction_cases h
    · refine .inl ⟨fun i hi => ?_, .inr (.inl ⟨.badAccess, by simp [State.refuseAccess, hf]⟩)⟩
      obtain ⟨hv, hp, ht⟩ := hi.alone
      simp [HostCycle.strobes, hv, hp, ht] at hc
    · rw [command_eq_accept, State.accept_of_ready hf hb] at hcmd
      obtain rfl : s.acceptWord c.cmd = t := by simpa using hcmd
      cases hw : decode c.cmd with
      | error e =>
        refine .inl ⟨fun i hi => ?_, .inr (.inl ⟨_, acceptWord_of_error hw⟩)⟩
        simpa [hw] using hi.decodes
      | ok i =>
        refine .inr ⟨i, ⟨hf, ⟨hv, hp, ht⟩, hw⟩, ?_⟩
        simp only [State.acceptWord, hw]
        split
        · rename_i hop
          obtain ⟨op, hop⟩ := Option.isSome_iff_exists.mp hop.2
          exact .inr ⟨op, hop, rfl⟩
        · exact .inl rfl
    · rw [State.accept_of_ready hf hb] at hact
      refine .inl ⟨fun i hi => by simpa [hv] using hi.alone, .inr (.inr (.inl ⟨c.pbAddr, c.pbWdata, ?_⟩))⟩
      simpa using hact.symm
    · rw [State.accept_of_ready hf hb] at hact
      refine .inl ⟨fun i hi => by simpa [hv] using hi.alone, .inr (.inr (.inr ⟨c.tpWseconds, c.tpWsequence, ?_⟩))⟩
      simpa using hact.symm
    · refine .inl ⟨fun i hi => ?_, .inl rfl⟩
      simpa [(HostCycle.strobes_eq_zero.mp hc).1] using hi.alone
  · rw [hostAction_of_fault c hf] at h
    exact .inl ⟨fun i hi => hf hi.unfaulted, .inl (by simpa using h.symm)⟩

/-- What a cycle of an idle block leaves of the host's inputs and of the trace. -/
theorem hostAction_host_trace (hb : s.busy = false) (h : hostAction c s = .next t) :
    t.host = s.host ∧ s.trace <+: t.trace := by
  obtain ⟨-, rfl | ⟨f, rfl⟩ | ⟨a, v, rfl⟩ | ⟨x, y, rfl⟩⟩ | ⟨i, -, rfl | ⟨op, -, rfl⟩⟩ := hostAction_cases_of_idle hb h
  · exact ⟨rfl, List.prefix_rfl⟩
  · exact ⟨rfl, List.prefix_rfl⟩
  · exact ⟨rfl, List.prefix_rfl⟩
  · exact ⟨rfl, List.prefix_rfl⟩
  · obtain ⟨-, -, -, -, -, hhost, -, -⟩ := writesOnlyItsRegisters_perform i s
    refine ⟨hhost, ?_⟩
    obtain htrace | ⟨op, -, -, s0, din, -, htrace⟩ := perform_trace_cases s i <;> rw [htrace]
    exact List.prefix_append ..
  · exact ⟨rfl, List.prefix_append ..⟩

/-- In an idle block `done` is set exactly by an operation that is taken and leaves the block idle. -/
theorem done_of_hostAction (hb : s.busy = false) (hd : s.done = false) (h : hostAction c s = .next t) :
    t.done = true ↔ t.busy = false ∧ ∃ i, TakesOperation c s i := by
  obtain ⟨hno, ht⟩ | ⟨i, hi, rfl | ⟨op, -, rfl⟩⟩ := hostAction_cases_of_idle hb h
  · have hdone : t.done = false := by
      obtain rfl | ⟨f, rfl⟩ | ⟨a, v, rfl⟩ | ⟨x, y, rfl⟩ := ht <;> exact hd
    simp [hdone, hno]
  · have hdone := (perform_completes (s := s) (decode_wellFormed hi.decodes)).1
    exact iff_of_true hdone ⟨(perform_busy i s).trans hb, i, hi⟩
  · simp [State.start, hd]

end idle

/-! ### Every step -/

section step

variable {s t : State}

/-- Every step uses up one cycle of the host's inputs and rewrites nothing of the trace. -/
theorem step_host_trace (h : step s = .next t) : t.host = s.host.tail ∧ s.trace <+: t.trace := by
  by_cases hr : s.hostNow.rst = true
  · obtain rfl : s.beginCycle.resetBlock = t := by simpa [step_of_rst hr] using h
    refine ⟨rfl, ?_⟩
    rw [trace_resetBlock_beginCycle]
    split
    · exact List.prefix_append ..
    · exact List.prefix_rfl
  rw [Bool.not_eq_true] at hr
  by_cases hb : s.busy = true
  · obtain hon | hend := step_of_frame_goesOn_or_ends hr hb h
    · exact ⟨hon.host, hon.trace⟩
    · exact ⟨hend.host, hend.trace⟩
  · rw [Bool.not_eq_true] at hb
    exact hostAction_host_trace (s := s.beginCycle) hb (step_of_idle hr hb ▸ h)

/-- Settles O47: the trace after a step begins with the trace before it. -/
theorem theTraceOnlyGrows : Obligations.TheTraceOnlyGrows := by
  intro s t h
  obtain ⟨events, hevents⟩ := (step_host_trace h).2
  exact ⟨events, hevents.symm⟩

/-- Settles O48: with `BUSY` still 1 there was no reset and the frame did not end, so it went on. -/
theorem noResultBeforeTheFrameEnds : Obligations.NoResultBeforeTheFrameEnds := by
  intro s t h hb hb'
  have hr : s.hostNow.rst = false := by
    by_contra hr
    have hblock := toBlock_of_step_of_rst (by simpa using hr) h
    rw [hblock] at hb'
    cases hb'
  obtain hon | hend := step_of_frame_goesOn_or_ends hr hb h
  · rw [hon.block]
    exact ⟨rfl, rfl, rfl, rfl, rfl, rfl, rfl⟩
  · simp [hend.busy] at hb'

/-- Settles O42: a reset and a frame that goes on leave `done` at 0, the end of a frame sets it; in an idle block it is
set exactly by an operation performed whole. -/
theorem donePulsesExactlyOnCompletion : Obligations.DonePulsesExactlyOnCompletion := by
  intro s t h
  by_cases hr : s.hostNow.rst = true
  · have hblock := toBlock_of_step_of_rst hr h
    simp [hr, hblock, Block.reset]
  rw [Bool.not_eq_true] at hr
  by_cases hb : s.busy = true
  · obtain hon | hend := step_of_frame_goesOn_or_ends hr hb h
    · have hdone : t.done = false := by rw [hon.block]; rfl
      have hbusy : t.busy = true := by rw [hon.block]; exact hb
      simp [hdone, hbusy]
    · simp [hend.done, hend.busy, hr, hb]
  · rw [Bool.not_eq_true] at hb
    rw [done_of_hostAction (s := s.beginCycle) hb rfl (step_of_idle hr hb ▸ h)]
    constructor
    · rintro ⟨hbusy, i, hi⟩
      exact ⟨hr, .inr ⟨⟨hi.unfaulted, hb⟩, ⟨hr, hi.alone⟩, hbusy, i, hi.decodes⟩⟩
    · rintro ⟨-, ⟨hb', -⟩ | ⟨⟨hf, -⟩, ⟨-, halone⟩, hbusy, i, hi⟩⟩
      · simp [hb] at hb'
      · exact ⟨hbusy, i, hf, halone, hi⟩

end step

end Sys2Proof.Machine
end

section
/-! A fault in the middle of a run (60_exceptions.md R207): a cycle without an action neither reads nor writes `FAULT`,
so a run of such cycles is the same but for `FAULT`. -/

namespace Sys2Proof.Machine

variable {s t : State}

theorem hostAction_of_silent {c : HostCycle} (hc : c.strobes = 0) (s : State) : hostAction c s = .next s := by
  obtain ⟨hv, hp, ht⟩ := HostCycle.strobes_eq_zero.mp hc
  simp [hostAction, hc, hv, hp, ht]

/-- A silent cycle does not depend on `FAULT` and does not touch it. -/
theorem step_setFault_of_silent (f : BitVec 2) (hc : s.hostNow.silent) (h : step s = .next t) :
    step { s with fault := f } = .next { t with fault := f } := by
  obtain ⟨hr, hstrobes⟩ := hc
  by_cases hb : s.busy = true
  · rw [step_of_frame hr hb, overlap_of_silent hstrobes] at h
    have hstep : step { s with fault := f } = if s.hostNow.advance then
        State.tick { s.beginCycle with fault := f } else .next { s.beginCycle with fault := f } := by
      rw [step_of_frame (s := { s with fault := f }) hr hb]
      exact congrArg (fun u : State => if s.hostNow.advance then u.tick else .next u)
        (overlap_of_silent (c := s.hostNow) hstrobes)
    rw [hstep]
    split at h
    · rw [if_pos ‹_›, tick_setFault f h]
    · obtain rfl : s.beginCycle = t := by simpa using h
      rw [if_neg ‹_›]
  · rw [Bool.not_eq_true] at hb
    rw [step_of_idle hr hb, hostAction_of_silent hstrobes] at h
    obtain rfl : s.beginCycle = t := by simpa using h
    rw [step_of_idle (s := { s with fault := f }) hr hb]
    exact hostAction_of_silent hstrobes _

/-- A host silent for all the cycles it lists is silent in the next one. -/
theorem hostNow_silent_of_forall (h : ∀ d ∈ s.host, d.silent) : s.hostNow.silent := by
  unfold State.hostNow
  cases hh : s.host with
  | nil => exact ⟨rfl, rfl⟩
  | cons d rest => exact h d (by simp [hh])

/-- A run of silent cycles does not depend on `FAULT` and does not touch it. -/
theorem run_setFault_of_silent (f : BitVec 2) (k : Nat) (hc : ∀ d ∈ s.host, d.silent) (h : run k s = .next t) :
    run k { s with fault := f } = .next { t with fault := f } := by
  induction k generalizing s with
  | zero =>
    obtain rfl : s = t := by simpa using h
    rfl
  | succ k ih =>
    rw [run_succ] at h
    split at h
    next u hu =>
      have hhost : u.host = s.host.tail := (step_host_trace hu).1
      rw [run_succ_of_step (step_setFault_of_silent f (hostNow_silent_of_forall hc) hu)]
      exact ih (fun d hd => hc d (List.mem_of_mem_tail (hhost ▸ hd))) h
    · cases h
    · cases h

/-- Settles O33: the step with the action is the one without it but for `FAULT` = 3, and the silent run after it keeps
that difference. -/
theorem aFaultLeavesTheFrameUndisturbed : Obligations.AFaultLeavesTheFrameUndisturbed := by
  intro s c rest k t hb hf hhost hr hc hrest h
  have hnow : s.hostNow = c := by rw [State.hostNow, hhost]; rfl
  have htail : s.host.tail = rest := by rw [hhost]; rfl
  rw [run_succ] at h
  split at h
  next u hu =>
    have hstep : step s = .next { u with fault := 3 } :=
      step_of_overlap (by rw [hnow, hr]) hf hb (by rw [hnow]; exact hc) (by rw [hnow, htail]; exact hu)
    have hrest' : ∀ d ∈ u.host, d.silent := by
      rw [(step_host_trace hu).1]
      exact hrest
    rw [run_succ_of_step hstep]
    exact run_setFault_of_silent 3 k hrest' h
  · cases h
  · cases h

end Sys2Proof.Machine
end

section
/-! The invariant (20_memory.md R54, R55, R61; 10_state.md R27, R28): the sequencer's step and the host's action each
keep it, and from it the machine always goes on. -/

namespace Sys2Proof.Machine

variable {s t : State} {op : BusOp}

theorem machineInv_iff_of_busy (hb : s.busy = true) : MachineInv s ↔ InFrame s := by
  rw [MachineInv, if_pos hb]

theorem machineInv_iff_of_idle (hb : s.busy = false) : MachineInv s ↔ AtRest s := by
  rw [MachineInv, if_neg (by simp [hb])]

theorem machineInv_of_inFrame (hb : s.busy = true) (h : InFrame s) : MachineInv s := (machineInv_iff_of_busy hb).mpr h

theorem machineInv_of_atRest (hb : s.busy = false) (h : AtRest s) : MachineInv s := (machineInv_iff_of_idle hb).mpr h

/-- Settles O44: the state after reset is at rest, with an empty trace. -/
theorem invariantHoldsAtReset : Obligations.InvariantHoldsAtReset :=
  machineInv_of_atRest rfl ⟨rfl, rfl, ⟨rfl, rfl, rfl, rfl, rfl, rfl, rfl, rfl⟩, rfl⟩

/-! ### The phases -/

theorem phaseAgrees_command (hp : s.ph = .command) :
    PhaseAgrees s op ↔ s.din.length = s.idx.toNat ∧ s.idx = 0 ∧ traceShape s.trace = .opened 0 := by
  simp only [PhaseAgrees, hp]

theorem phaseAgrees_data (hp : s.ph = .data) :
    PhaseAgrees s op ↔ s.din.length = s.idx.toNat ∧ s.idx.toNat < op.out.length ∧
      traceShape s.trace = .opened (s.idx.toNat + 1) := by
  simp only [PhaseAgrees, hp]

theorem phaseAgrees_deselect (hp : s.ph = .deselect) :
    PhaseAgrees s op ↔ s.din.length = s.idx.toNat ∧ s.idx.toNat = op.out.length ∧ s.shifting = false ∧
      traceShape s.trace = .opened (op.out.length + 1) := by
  simp only [PhaseAgrees, hp]

theorem ph_ne_select_of_phaseAgrees (h : PhaseAgrees s op) : s.ph ≠ .select := by
  intro hp
  simp [PhaseAgrees, hp] at h

/-! ### An exchange -/

/-- `s` in the middle of an exchange: the bus clock, `MOSI` and the shift register have moved, and nothing else. -/
def State.midExchange (s : State) (sck mosi : Bool) (shift : Byte) (bitCount : BitVec 3) : State :=
  { s with sck := sck, mosi := mosi, shift := shift, bitCount := bitCount, shifting := true }

/-- `s` after an exchange: the mark it leaves, with `MOSI`, the shift register and the counter as the level has them. -/
def State.exchangeOver (s : State) (m b : Byte) (mosi : Bool) (shift : Byte) (bitCount : BitVec 3) : State :=
  { s.exchanged m b with mosi := mosi, shift := shift, bitCount := bitCount, shifting := false }

/-- How many steps an exchange takes at a level (log 12). -/
def exchangeSteps : Grain → Nat
  | .operation => 1
  | .byte => 1
  | .bit => 17

/-- How many steps the exchange of the state's phase still takes: a loading and two edges of `SCK` for each bit. -/
def State.exchangeLeft (s : State) : Nat :=
  if s.shifting then 2 * s.bitCount.toNat + (if s.sck then 1 else 2) else exchangeSteps s.grain

/-- Outside an exchange the bus clock is low. -/
theorem sck_of_not_shifting (hsck : s.sck = true → s.shifting = true) (hsh : s.shifting = false) : s.sck = false := by
  simpa [hsh] using hsck

theorem exchangeSteps_of_ne_bit {g : Grain} (hg : g ≠ .bit) : exchangeSteps g = 1 := by
  cases g <;> simp_all [exchangeSteps]

/-- One step of an exchange ends it, with one step left before and the byte received after, or goes on in it, with one
step less left. -/
theorem exchangeTick_over_or_mid (hsck : s.sck = true → s.shifting = true) (hsh : s.shifting = true → s.grain = .bit)
    (m : Byte) (after : Byte → State → State) :
    (s.exchangeLeft = 1 ∧ ∃ b mosi shift bitCount,
      s.exchangeTick m after = after b (s.exchangeOver m b mosi shift bitCount)) ∨
    (s.grain = .bit ∧ ∃ sck mosi shift bitCount,
      s.exchangeTick m after = s.midExchange sck mosi shift bitCount ∧
      (s.midExchange sck mosi shift bitCount).exchangeLeft + 1 = s.exchangeLeft) := by
  obtain ⟨hg, h⟩ | ⟨hg, hs, h⟩ | ⟨hg, hs, hk, h⟩ | ⟨hg, hs, hk, hb, h⟩ | ⟨hg, hs, hk, hb, h⟩ :=
    exchangeTick_cases s m after
  · have hs : s.shifting = false := by
      by_contra hs
      exact hg (hsh (by simpa using hs))
    refine .inl ⟨by simp [State.exchangeLeft, hs, exchangeSteps_of_ne_bit hg], s.answer m, m.getLsbD 0, s.shift,
      s.bitCount, ?_⟩
    rw [h, State.exchangeOver, ← hs]
    rfl
  · refine .inr ⟨hg, s.sck, m.getLsbD 7, m, 7, h, ?_⟩
    have hk := sck_of_not_shifting hsck hs
    simp [State.exchangeLeft, State.midExchange, hs, hk, hg, exchangeSteps]
  · refine .inr ⟨hg, true, s.mosi, (s.riseSck m).shift, s.bitCount, ?_, ?_⟩
    · rw [h]
      simp only [State.riseSck, State.midExchange, hs]
    · simp [State.exchangeLeft, State.midExchange, hs, hk]
  · refine .inr ⟨hg, false, s.shift.getLsbD 7, s.shift, s.bitCount - 1, ?_, ?_⟩
    · rw [h]
      simp only [State.fallSck, State.midExchange, hs]
    · have hpos : s.bitCount.toNat ≠ 0 := fun h0 => hb (BitVec.eq_of_toNat_eq h0)
      have hpred : (s.bitCount - 1).toNat = s.bitCount.toNat - 1 := by
        rw [BitVec.toNat_sub_of_le (by bv_omega)]; rfl
      simp only [State.exchangeLeft, State.midExchange, hs, hk, hpred]
      simp
      omega
  · exact .inl ⟨by simp [State.exchangeLeft, hs, hk, hb], s.shift, s.mosi, 0, 0, h⟩

/-! ### The sequencer's step -/

/-- What the sequencer's step does in a frame of the invariant: it goes on in an exchange, ends the command exchange or
a data exchange, or closes the frame. -/
theorem tickOp_cases_of_inFrame (h : InFrame s) (hop : s.inFlight = some op) :
    (s.ph ≠ .deselect ∧ s.grain = .bit ∧ ∃ sck mosi shift bitCount,
      s.tickOp op = s.midExchange sck mosi shift bitCount ∧
      (s.midExchange sck mosi shift bitCount).exchangeLeft + 1 = s.exchangeLeft) ∨
    (s.ph = .command ∧ s.exchangeLeft = 1 ∧ ∃ b mosi shift bitCount,
      s.tickOp op = afterCommand op b (s.exchangeOver op.cmd b mosi shift bitCount)) ∨
    (s.ph = .data ∧ s.exchangeLeft = 1 ∧ ∃ m b mosi shift bitCount,
      s.tickOp op = afterData op b (s.exchangeOver m b mosi shift bitCount)) ∨
    (s.ph = .deselect ∧ s.tickOp op = s.finish op) := by
  obtain ⟨-, -, hsck, hsh, op', hop', -, hph⟩ := h
  obtain rfl : op' = op := by simpa [hop'] using hop
  obtain ⟨hp, -⟩ | ⟨hp, htick⟩ | ⟨hp, htick⟩ | ⟨hp, htick⟩ := tickOp_cases s op'
  · exact absurd hp (ph_ne_select_of_phaseAgrees hph)
  · rw [htick]
    obtain ⟨hleft, hover⟩ | ⟨hg, hmid⟩ := exchangeTick_over_or_mid hsck hsh op'.cmd (afterCommand op')
    · exact .inr (.inl ⟨hp, hleft, hover⟩)
    · exact .inl ⟨by simp [hp], hg, hmid⟩
  · rw [htick]
    obtain ⟨hleft, hover⟩ | ⟨hg, hmid⟩ := exchangeTick_over_or_mid hsck hsh (nextDataByte op' s) (afterData op')
    · exact .inr (.inr (.inl ⟨hp, hleft, _, hover⟩))
    · exact .inl ⟨by simp [hp], hg, hmid⟩
  · exact .inr (.inr (.inr ⟨hp, htick⟩))

theorem inFrame_midExchange (h : InFrame s) (hp : s.ph ≠ .deselect) (hg : s.grain = .bit) (sck mosi : Bool)
    (shift : Byte) (bitCount : BitVec 3) : InFrame (s.midExchange sck mosi shift bitCount) := by
  obtain ⟨hcsn, hdone, -, -, op, hop, hlen, hph⟩ := h
  refine ⟨hcsn, hdone, fun _ => rfl, fun _ => hg, op, hop, hlen, ?_⟩
  cases hphase : s.ph with
  | select => exact absurd hphase (ph_ne_select_of_phaseAgrees hph)
  | command =>
    exact (phaseAgrees_command (s := s.midExchange sck mosi shift bitCount) hphase).mpr
      ((phaseAgrees_command hphase).mp hph)
  | data =>
    exact (phaseAgrees_data (s := s.midExchange sck mosi shift bitCount) hphase).mpr
      ((phaseAgrees_data hphase).mp hph)
  | deselect => exact absurd hphase hp

section exchanged

variable (h : InFrame s) (hop : s.inFlight = some op) (m b : Byte) (mosi : Bool) (shift : Byte) (bitCount : BitVec 3)
include h hop

/-- After the command exchange the trace holds one exchange, and `IDX` is 0 still. -/
theorem inFrame_afterCommand (hp : s.ph = .command) :
    InFrame (afterCommand op b (s.exchangeOver m b mosi shift bitCount)) := by
  obtain ⟨hcsn, hdone, -, -, op', hop', hlen, hph⟩ := h
  obtain rfl : op' = op := by simpa [hop'] using hop
  obtain ⟨hdin, hidx, hshape⟩ := (phaseAgrees_command hp).mp hph
  have hshape' : traceShape (s.trace ++ [.x m b]) = .opened 1 := by
    rw [traceShape_append, hshape]
    rfl
  refine ⟨hcsn, hdone, fun hk => Bool.noConfusion hk, fun hs => Bool.noConfusion hs, op', hop', hlen, ?_⟩
  by_cases hout : op'.out.length = 0
  · refine (phaseAgrees_deselect (if_pos hout)).mpr ⟨hdin, ?_, rfl, ?_⟩
    · rw [hout]
      exact congrArg BitVec.toNat hidx
    · rw [hout]
      exact hshape'
  · refine (phaseAgrees_data (if_neg hout)).mpr ⟨hdin, ?_, ?_⟩
    · exact (congrArg BitVec.toNat hidx).trans_lt (Nat.pos_of_ne_zero hout)
    · refine hshape'.trans (congrArg TraceShape.opened ?_)
      exact congrArg (· + 1) (congrArg BitVec.toNat hidx).symm

/-- After a data exchange the trace, `DIN` and `IDX` each count one more. -/
theorem inFrame_afterData (hp : s.ph = .data) :
    InFrame (afterData op b (s.exchangeOver m b mosi shift bitCount)) := by
  obtain ⟨hcsn, hdone, -, -, op', hop', hlen, hph⟩ := h
  obtain rfl : op' = op := by simpa [hop'] using hop
  obtain ⟨hdin, hidx, hshape⟩ := (phaseAgrees_data hp).mp hph
  have hnext : (s.idx + 1).toNat = s.idx.toNat + 1 := by bv_omega
  have hdin' : (s.din ++ [b]).length = (s.idx + 1).toNat := by
    rw [List.length_append, hdin, hnext]
    rfl
  have hshape' : traceShape (s.trace ++ [.x m b]) = .opened (s.idx.toNat + 1 + 1) := by
    rw [traceShape_append, hshape, TraceShape.next, if_pos (by omega)]
  refine ⟨hcsn, hdone, fun hk => Bool.noConfusion hk, fun hs => Bool.noConfusion hs, op', hop', hlen, ?_⟩
  by_cases hmore : s.idx.toNat + 1 < op'.out.length
  · refine (phaseAgrees_data (if_pos hmore)).mpr ⟨hdin', hnext.trans_lt hmore, ?_⟩
    exact hshape'.trans (congrArg (fun n => TraceShape.opened (n + 1)) hnext.symm)
  · have hlast : s.idx.toNat + 1 = op'.out.length := by omega
    refine (phaseAgrees_deselect (if_neg hmore)).mpr ⟨hdin', hnext.trans hlast, rfl, ?_⟩
    exact hshape'.trans (congrArg (fun n => TraceShape.opened (n + 1)) hlast)

end exchanged

/-- A trace inside a frame is closed by `CsnHigh`. -/
theorem traceShape_csnHigh {trace : List BusEvent} {k : Nat} (h : traceShape trace = .opened k) :
    traceShape (trace ++ [.csnHigh]) = .closed := by
  rw [traceShape_append, h]
  rfl

/-- The trace of a frame in flight is inside a frame. -/
theorem traceShape_of_inFrame (h : InFrame s) : ∃ k, traceShape s.trace = .opened k := by
  obtain ⟨-, -, -, -, op, -, -, hph⟩ := h
  cases hp : s.ph with
  | select => exact absurd hp (ph_ne_select_of_phaseAgrees hph)
  | command =>
    obtain ⟨-, -, hshape⟩ := (phaseAgrees_command hp).mp hph
    exact ⟨_, hshape⟩
  | data =>
    obtain ⟨-, -, hshape⟩ := (phaseAgrees_data hp).mp hph
    exact ⟨_, hshape⟩
  | deselect =>
    obtain ⟨-, -, -, hshape⟩ := (phaseAgrees_deselect hp).mp hph
    exact ⟨_, hshape⟩

/-- The last act leaves the pins at rest and the frame closed in the trace. -/
theorem atRest_finish (h : InFrame s) (hop : s.inFlight = some op) (hp : s.ph = .deselect) :
    AtRest (s.finish op) := by
  have hcommits := inFlight_commits hop
  obtain ⟨k, hshape⟩ := traceShape_of_inFrame h
  obtain ⟨-, -, hsck, -, op', hop', -, hph⟩ := h
  obtain ⟨-, -, hshifting, -⟩ := (phaseAgrees_deselect hp).mp hph
  have hblock := hcommits.block s.s0 s.din s.csnHigh
  refine ⟨?_, ?_, ⟨rfl, rfl, rfl, rfl, rfl, rfl, rfl, rfl⟩, ?_⟩
  · exact congrArg (·.csn) hblock
  · exact (congrArg (·.sck) hblock).trans (sck_of_not_shifting hsck hshifting)
  · have htrace : (s.finish op).trace = s.trace ++ [.csnHigh] := hcommits.trace s.s0 s.din s.csnHigh
    rw [htrace]
    exact traceShape_csnHigh hshape

/-- The sequencer's step keeps the invariant. -/
theorem machineInv_tickOp (h : InFrame s) (hb : s.busy = true) (hop : s.inFlight = some op) :
    MachineInv (s.tickOp op) := by
  obtain ⟨hp, hg, sck, mosi, shift, bitCount, ht, -⟩ | ⟨hp, -, b, mosi, shift, bitCount, ht⟩ |
    ⟨hp, -, m, b, mosi, shift, bitCount, ht⟩ | ⟨hp, ht⟩ := tickOp_cases_of_inFrame h hop <;> rw [ht]
  · exact machineInv_of_inFrame hb (inFrame_midExchange h hp hg sck mosi shift bitCount)
  · exact machineInv_of_inFrame hb (inFrame_afterCommand h hop _ b mosi shift bitCount hp)
  · exact machineInv_of_inFrame hb (inFrame_afterData h hop m b mosi shift bitCount hp)
  · exact machineInv_of_atRest rfl (atRest_finish h hop hp)

/-! ### The host's action -/

/-- A whole operation leaves the pins of a block at rest where they were. -/
theorem perform_pins (i : Instr) (hcsn : s.csn = true) (hsck : s.sck = false) :
    (s.perform i).csn = true ∧ (s.perform i).sck = false := by
  obtain ⟨-, h⟩ | ⟨-, op, hop, h⟩ | ⟨-, h⟩ | ⟨-, h⟩ := perform_cases s i <;> rw [h]
  · exact ⟨hcsn, hsck⟩
  · rw [performBus_toBlock s (busOpOf_commits hop)]
    exact ⟨rfl, rfl⟩
  · simp [hcsn, hsck]
  · simp [hcsn, hsck]

/-- A whole operation leaves the latches dead and the trace between frames. -/
theorem atRest_perform (i : Instr) (h : AtRest s) : AtRest (s.perform i) := by
  obtain ⟨hcsn, hsck, hlatches, hshape⟩ := h
  obtain ⟨hcsn', hsck'⟩ := perform_pins i hcsn hsck
  obtain ⟨-, -, -, -, hblock, -⟩ := writesOnlyItsRegisters_perform i s
  refine ⟨hcsn', hsck', ?_, ?_⟩
  · unfold LatchesIdle
    rw [hblock]
    exact hlatches
  · obtain htrace | ⟨op, -, hout, s0, din, hlen, htrace⟩ := perform_trace_cases s i <;> rw [htrace]
    · exact hshape
    · exact traceShape_bracket hshape op.cmd s0 hlen hout

/-- A frame begins inside a frame of the trace, with no exchange made. -/
theorem inFrame_start {w : CmdWord} {i : Instr} (h : AtRest s) (hdone : s.done = false) (hw : decode w = .ok i)
    (hop : busOpOf i s.pb = some op) : InFrame (s.start w) := by
  obtain ⟨-, hsck, -, hshape⟩ := h
  have hinFlight : (s.start w).inFlight = some op := by
    have hcur : (s.start w).cur = w := rfl
    simp only [State.inFlight, hcur, hw]
    exact hop
  have hshape' : traceShape (s.start w).trace = .opened 0 := by
    rw [start_trace, traceShape_append, hshape]
    rfl
  refine ⟨rfl, hdone, fun hk => ?_, fun hs => Bool.noConfusion hs, op, hinFlight, busOp_length_le hw hop, ?_⟩
  · exact absurd (hk.symm.trans hsck) (by decide)
  · exact (phaseAgrees_command rfl).mpr ⟨rfl, rfl, hshape'⟩

/-- What the host presents to an idle block keeps the invariant. -/
theorem machineInv_hostAction {c : HostCycle} (h : AtRest s) (hb : s.busy = false) (hdone : s.done = false)
    (ht : hostAction c s = .next t) : MachineInv t := by
  obtain ⟨-, rfl | ⟨f, rfl⟩ | ⟨a, v, rfl⟩ | ⟨x, y, rfl⟩⟩ | ⟨i, hi, rfl | ⟨op, hop, rfl⟩⟩ :=
    hostAction_cases_of_idle hb ht
  · exact machineInv_of_atRest hb h
  · exact machineInv_of_atRest hb h
  · exact machineInv_of_atRest hb h
  · exact machineInv_of_atRest hb h
  · exact machineInv_of_atRest ((perform_busy i s).trans hb) (atRest_perform i h)
  · exact machineInv_of_inFrame rfl (inFrame_start h hdone hi.decodes hop)

/-! ### Every step -/

/-- A reset leaves the block at rest and closes the frame it cuts. -/
theorem atRest_resetBlock_beginCycle (h : MachineInv s) : AtRest s.beginCycle.resetBlock := by
  refine ⟨rfl, rfl, ⟨rfl, rfl, rfl, rfl, rfl, rfl, rfl, rfl⟩, ?_⟩
  rw [trace_resetBlock_beginCycle]
  split
  · obtain ⟨k, hshape⟩ := traceShape_of_inFrame ((machineInv_iff_of_busy ‹_›).mp h)
    exact traceShape_csnHigh hshape
  · rename_i hb
    obtain ⟨-, -, -, hshape⟩ := (machineInv_iff_of_idle (by simpa using hb)).mp h
    exact hshape

theorem overlap_busy {c : HostCycle} : (overlap c s.beginCycle).busy = s.busy := by
  rw [overlap_eq]
  rfl

/-- A cycle begins and an action is refused, and the frame in flight is not touched. -/
theorem inFrame_overlap (c : HostCycle) (h : InFrame s) : InFrame (overlap c s.beginCycle) := by
  obtain ⟨hcsn, -, hrest⟩ := h
  rw [overlap_eq]
  exact ⟨hcsn, rfl, hrest⟩

/-- Settles O45: a reset, the sequencer's step and the host's action each keep the invariant. -/
theorem everyStepKeepsTheInvariant : Obligations.EveryStepKeepsTheInvariant := by
  intro s t h ht
  obtain ⟨-, rfl⟩ | ⟨-, hb, -, rfl⟩ | ⟨-, hb, -, op, hop, rfl⟩ | ⟨-, hb, ht⟩ := step_cases ht
  · exact machineInv_of_atRest rfl (atRest_resetBlock_beginCycle h)
  · have hframe := inFrame_overlap s.hostNow ((machineInv_iff_of_busy hb).mp h)
    exact machineInv_of_inFrame (overlap_busy.trans hb) hframe
  · have hframe := inFrame_overlap s.hostNow ((machineInv_iff_of_busy hb).mp h)
    exact machineInv_tickOp hframe (overlap_busy.trans hb) ((overlap_inFlight ..).trans hop)
  · exact machineInv_hostAction (s := s.beginCycle) ((machineInv_iff_of_idle hb).mp h) hb rfl ht

/-- An idle block answers every action with a next state. -/
theorem hostAction_next (c : HostCycle) (s : State) : ∃ t, hostAction c s = .next t := by
  simp only [hostAction, command_eq_accept, State.accept]
  split_ifs <;> exact ⟨_, rfl⟩

/-- Settles O46: the sequencer follows the operation in flight, which the invariant gives, and nothing else can stop. -/
theorem noStepFromTheInvariantStops : Obligations.NoStepFromTheInvariantStops := by
  intro s h
  by_cases hr : s.hostNow.rst = true
  · exact ⟨_, step_of_rst hr⟩
  rw [Bool.not_eq_true] at hr
  by_cases hb : s.busy = true
  · obtain ⟨-, -, -, -, op, hop, -⟩ := (machineInv_iff_of_busy hb).mp h
    rw [step_of_frame hr hb]
    split
    · exact ⟨_, tick_of_inFlight ((overlap_inFlight ..).trans hop)⟩
    · exact ⟨_, rfl⟩
  · rw [Bool.not_eq_true] at hb
    rw [step_of_idle hr hb]
    exact hostAction_next ..

end Sys2Proof.Machine
end

section
/-! A frame in flight with a silent host ends (70_reset_and_hazards.md R253): each step of the sequencer leaves one step
less of the frame. -/

namespace Sys2Proof.Machine

variable {s : State} {op : BusOp}

/-- `s` some clock cycles later, with nothing done in them. -/
def State.elapse (s : State) (k : Nat) : State := { s with clock := s.clock + k, done := false }

/-- The step of a frame in flight with a silent host: the sequencer's step in the cycle that begins. -/
theorem step_of_silent_frame (hs : HostSilent s) (hb : s.busy = true) (hop : s.inFlight = some op) :
    step s = .next ((s.elapse 1).tickOp op) := by
  have hbegin : s.beginCycle = s.elapse 1 := by
    rw [State.beginCycle, State.elapse, hs]
    rfl
  rw [step_of_busy (by rw [hostNow_of_silent hs]; rfl) hb (by rw [hostNow_of_silent hs]; rfl), hostNow_of_silent hs,
    overlap_of_silent rfl, hbegin]
  exact tick_of_inFlight hop

/-- How many exchanges of the frame follow the one of the state's phase. -/
def State.exchangesAfter (s : State) (op : BusOp) : Nat :=
  if s.ph = .command then op.out.length else op.out.length - s.idx.toNat - 1

/-- How many steps the frame still takes: the exchange of its phase, the exchanges after it, and the last act. -/
def State.stepsLeft (s : State) (op : BusOp) : Nat :=
  if s.ph = .deselect then 1 else s.exchangeLeft + exchangeSteps s.grain * s.exchangesAfter op + 1

theorem exchangeSteps_le (g : Grain) : exchangeSteps g ≤ 17 := by
  cases g <;> decide

theorem exchangeLeft_le (s : State) : s.exchangeLeft ≤ 17 := by
  unfold State.exchangeLeft
  split
  · split <;> omega
  · exact exchangeSteps_le _

/-- The longest frame has 33 exchanges. -/
theorem stepsLeft_le (hlen : op.out.length ≤ 32) (s : State) : s.stepsLeft op ≤ 17 * 33 + 1 := by
  have hafter : s.exchangesAfter op ≤ 32 := by
    unfold State.exchangesAfter
    split <;> omega
  have hrest := Nat.mul_le_mul (exchangeSteps_le s.grain) hafter
  have hleft := exchangeLeft_le s
  unfold State.stepsLeft
  split <;> omega

/-- After an exchange the steps left are those of the exchanges that follow, and the last act. -/
theorem stepsLeft_of_exchange_over {t : State} (n : Nat) (hsh : t.shifting = false)
    (hmore : n ≠ 0 → t.ph ≠ .deselect ∧ t.exchangesAfter op + 1 = n) (hlast : n = 0 → t.ph = .deselect) :
    t.stepsLeft op = exchangeSteps t.grain * n + 1 := by
  by_cases hn : n = 0
  · simp [State.stepsLeft, hlast hn, hn]
  · obtain ⟨hp, hafter⟩ := hmore hn
    have hleft : t.exchangeLeft = exchangeSteps t.grain := by simp [State.exchangeLeft, hsh]
    rw [State.stepsLeft, if_neg hp, hleft, ← hafter, Nat.mul_succ, Nat.add_comm (exchangeSteps t.grain)]

/-- After the command exchange the data exchanges are left, and the last act. -/
theorem stepsLeft_afterCommand (hidx : s.idx = 0) (m b : Byte) (mosi : Bool) (shift : Byte) (bitCount : BitVec 3) :
    (afterCommand op b (s.exchangeOver m b mosi shift bitCount)).stepsLeft op =
      exchangeSteps s.grain * op.out.length + 1 := by
  refine stepsLeft_of_exchange_over op.out.length rfl (fun hn => ?_) (fun hn => if_pos hn)
  have hph : (afterCommand op b (s.exchangeOver m b mosi shift bitCount)).ph = .data := if_neg hn
  have hidx' : (afterCommand op b (s.exchangeOver m b mosi shift bitCount)).idx.toNat = 0 :=
    congrArg BitVec.toNat hidx
  refine ⟨by simp [hph], ?_⟩
  rw [State.exchangesAfter, if_neg (by simp [hph]), hidx']
  omega

/-- After a data exchange one exchange less is left, and the last act. -/
theorem stepsLeft_afterData (hidx : s.idx.toNat < op.out.length) (hlen : op.out.length ≤ 32) (m b : Byte) (mosi : Bool)
    (shift : Byte) (bitCount : BitVec 3) :
    (afterData op b (s.exchangeOver m b mosi shift bitCount)).stepsLeft op =
      exchangeSteps s.grain * (op.out.length - s.idx.toNat - 1) + 1 := by
  refine stepsLeft_of_exchange_over _ rfl (fun hn => ?_) (fun hn => if_neg ?_)
  · have hph : (afterData op b (s.exchangeOver m b mosi shift bitCount)).ph = .data :=
      if_pos (show s.idx.toNat + 1 < op.out.length by omega)
    have hidx' : (afterData op b (s.exchangeOver m b mosi shift bitCount)).idx.toNat = s.idx.toNat + 1 := by
      change (s.idx + 1).toNat = _
      bv_omega
    refine ⟨by simp [hph], ?_⟩
    rw [State.exchangesAfter, if_neg (by simp [hph]), hidx']
    omega
  · change ¬s.idx.toNat + 1 < op.out.length
    omega

/-- A step that does not close the frame keeps it in flight and leaves one step less. -/
theorem stepsLeft_tickOp (h : InFrame s) (hop : s.inFlight = some op) (hp : s.ph ≠ .deselect) :
    (s.tickOp op).busy = s.busy ∧ (s.tickOp op).inFlight = s.inFlight ∧
      (s.tickOp op).stepsLeft op + 1 = s.stepsLeft op := by
  have hstep := tickOp_cases_of_inFrame h hop
  obtain ⟨-, -, -, -, op', hop', hlen, hph⟩ := h
  obtain rfl : op' = op := by simpa [hop'] using hop
  have hleft : s.stepsLeft op' = s.exchangeLeft + exchangeSteps s.grain * s.exchangesAfter op' + 1 := if_neg hp
  obtain ⟨-, -, sck, mosi, shift, bitCount, ht, hless⟩ | ⟨hp', hone, b, mosi, shift, bitCount, ht⟩ |
    ⟨hp', hone, m, b, mosi, shift, bitCount, ht⟩ | ⟨hp', -⟩ := hstep
  · refine ht ▸ ⟨rfl, rfl, ?_⟩
    have hleft' : (s.midExchange sck mosi shift bitCount).stepsLeft op' =
        (s.midExchange sck mosi shift bitCount).exchangeLeft + exchangeSteps s.grain * s.exchangesAfter op' + 1 :=
      if_neg hp
    omega
  · refine ht ▸ ⟨rfl, rfl, ?_⟩
    obtain ⟨-, hidx, -⟩ := (phaseAgrees_command hp').mp hph
    have hafter : s.exchangesAfter op' = op'.out.length := if_pos hp'
    rw [stepsLeft_afterCommand hidx, hleft, hone, hafter]
    omega
  · refine ht ▸ ⟨rfl, rfl, ?_⟩
    obtain ⟨-, hidx, -⟩ := (phaseAgrees_data hp').mp hph
    have hafter : s.exchangesAfter op' = op'.out.length - s.idx.toNat - 1 := if_neg (by simp [hp'])
    rw [stepsLeft_afterData hidx hlen, hleft, hone, hafter]
    omega
  · exact absurd hp' hp

theorem stepsLeft_pos (s : State) (op : BusOp) : 0 < s.stepsLeft op := by
  unfold State.stepsLeft
  split <;> omega

theorem inFrame_elapse (h : InFrame s) (k : Nat) : InFrame (s.elapse k) := by
  obtain ⟨hcsn, -, hrest⟩ := h
  exact ⟨hcsn, rfl, hrest⟩

/-- A frame in flight with a silent host ends in the steps it has left, at rest and with `done` = 1. -/
theorem frame_ends (n : Nat) (h : InFrame s) (hb : s.busy = true) (hs : HostSilent s) (hop : s.inFlight = some op)
    (hn : s.stepsLeft op ≤ n) :
    ∃ (k : Nat) (t : State), k ≤ n ∧ run k s = .next t ∧ t.busy = false ∧ t.csn = true ∧ t.done = true := by
  induction n generalizing s with
  | zero => exact absurd hn (Nat.not_le.mpr (stepsLeft_pos s op))
  | succ n ih =>
    have hstep := step_of_silent_frame hs hb hop
    have hframe := inFrame_elapse h 1
    by_cases hp : s.ph = .deselect
    · rw [tickOp_deselect (s := s.elapse 1) hp] at hstep
      obtain ⟨hcsn, -⟩ := atRest_finish hframe hop hp
      exact ⟨1, _, by omega, run_succ_of_step hstep, rfl, hcsn, rfl⟩
    · obtain ⟨hbusy, hinFlight, hless⟩ := stepsLeft_tickOp hframe hop hp
      have hless' : ((s.elapse 1).tickOp op).stepsLeft op + 1 = s.stepsLeft op := hless
      have hinv := machineInv_tickOp hframe hb hop
      have hhost : HostSilent ((s.elapse 1).tickOp op) := by
        rw [HostSilent, (step_host_trace hstep).1, hs]
        rfl
      obtain ⟨k, t, hk, hrun, ht⟩ := ih ((machineInv_iff_of_busy (hbusy.trans hb)).mp hinv) (hbusy.trans hb) hhost
        (hinFlight.trans hop) (by omega)
      exact ⟨k + 1, t, by omega, (run_succ_of_step hstep).trans hrun, ht⟩

/-- Settles O49: a frame in flight has no more steps left than the longest one takes. -/
theorem everyFrameEnds : Obligations.EveryFrameEnds := by
  intro s h hb hs
  have hframe := (machineInv_iff_of_busy hb).mp h
  obtain ⟨-, -, -, -, op, hop, hlen, -⟩ := id hframe
  exact frame_ends (17 * 33 + 1) hframe hb hs hop (stepsLeft_le hlen s)

end Sys2Proof.Machine
end

section
/-! One exchange bit by bit (20_memory.md R52, R53; log 12): the shift register is a window of 8 bits that slides from
the byte sent to the byte received. -/

namespace Sys2Proof.Machine

variable {s : State} {op : BusOp} {m b : Byte} {after : Byte → State → State} {j : Nat}

/-! ### The shift register -/

/-- The shift register after `j` bits: the byte sent followed by the byte received, seen through a window of 8 bits. -/
def wireWindow (m b : Byte) (j : Nat) : Byte := (m ++ b).extractLsb' (8 - j) 8

theorem wireWindow_zero (m b : Byte) : wireWindow m b 0 = m := append_high m b

theorem wireWindow_eight (m b : Byte) : wireWindow m b 8 = b := append_low m b

/-- A rising edge slides the window by one bit: the bit the slave drives enters at the low end. -/
theorem wireWindow_succ (hj : j < 8) :
    (wireWindow m b j).extractLsb' 0 7 ++ BitVec.ofBool (b.getLsbD (7 - j)) = wireWindow m b (j + 1) := by
  ext i hi
  rw [wireWindow, wireWindow, BitVec.getElem_append, BitVec.getElem_extractLsb']
  cases i with
  | zero =>
    rw [dif_pos (by decide), BitVec.getLsbD_append, if_pos (by omega)]
    simp only [BitVec.getElem_ofBool, Nat.add_zero, show 8 - (j + 1) = 7 - j by omega]
  | succ i =>
    rw [dif_neg (by omega)]
    simp only [BitVec.getElem_extractLsb', BitVec.getLsbD_extractLsb', Nat.add_sub_cancel, Nat.zero_add,
      show i < 8 by omega, decide_true, Bool.true_and, show 8 - (j + 1) + (i + 1) = 8 - j + i by omega]

/-- The bit at the high end of the window is the next one to send. -/
theorem wireWindow_high (hj : j < 8) : (wireWindow m b j).getLsbD 7 = m.getLsbD (7 - j) := by
  rw [wireWindow, BitVec.getLsbD_extractLsb', BitVec.getLsbD_append, if_neg (by omega),
    show 8 - j + 7 - 8 = 7 - j by omega]
  rfl

/-! ### An exchange, from its loading to its eighth falling edge -/

/-- A frame in flight with a silent host, about to exchange the byte `m`, with `after` what the sequencer does then. -/
structure Exchanging (s : State) (op : BusOp) (m : Byte) (after : Byte → State → State) : Prop where
  silent : HostSilent s
  busy : s.busy = true
  inFlight : s.inFlight = some op
  sends : (s.ph = .command ∧ m = op.cmd ∧ after = afterCommand op) ∨
    (s.ph = .data ∧ m = nextDataByte op s ∧ after = afterData op)

theorem Exchanging.step (h : Exchanging s op m after) : step s = .next ((s.elapse 1).exchangeTick m after) := by
  rw [step_of_silent_frame h.silent h.busy h.inFlight]
  obtain ⟨hp, rfl, rfl⟩ | ⟨hp, rfl, rfl⟩ := h.sends
  · rw [tickOp_command (s := s.elapse 1) hp]
  · rw [tickOp_data (s := s.elapse 1) hp]
    rfl

/-- In the middle of its exchange the sequencer is about to exchange the same byte. -/
theorem Exchanging.midExchange (h : Exchanging s op m after) (k : Nat) (sck mosi : Bool) (shift : Byte)
    (bitCount : BitVec 3) : Exchanging ((s.elapse k).midExchange sck mosi shift bitCount) op m after :=
  ⟨h.silent, h.busy, h.inFlight, h.sends⟩

/-- What the sequencer does after an exchange leaves the trace, the slave and the pins as they are. -/
theorem Exchanging.after_keeps (h : Exchanging s op m after) (b : Byte) (t : State) :
    (after b t).trace = t.trace ∧ (after b t).slave = t.slave ∧ (after b t).mosi = t.mosi ∧
      (after b t).sck = t.sck := by
  obtain ⟨-, -, rfl⟩ | ⟨-, -, rfl⟩ := h.sends <;> exact ⟨rfl, rfl, rfl, rfl⟩

/-- `s` with `j` bits of the exchange of `m` made and `SCK` low: the next bit is on `MOSI`. -/
def State.wireLow (s : State) (m : Byte) (j : Nat) : State :=
  s.midExchange false (m.getLsbD (7 - j)) (wireWindow m (s.answer m) j) (BitVec.ofNat 3 (7 - j))

/-- The same with `SCK` high: the bit on `MOSI` has been exchanged. -/
def State.wireHigh (s : State) (m : Byte) (j : Nat) : State :=
  s.midExchange true (m.getLsbD (7 - j)) (wireWindow m (s.answer m) (j + 1)) (BitVec.ofNat 3 (7 - j))

theorem loadShift_eq_wireLow (hsck : s.sck = false) (m : Byte) : s.loadShift m = s.wireLow m 0 := by
  simp only [State.loadShift, State.wireLow, State.midExchange, wireWindow_zero, hsck]
  rfl

theorem bitCount_of_lt (hj : j < 8) : (BitVec.ofNat 3 (7 - j)).toNat = 7 - j := by
  rw [BitVec.toNat_ofNat]
  omega

/-- A rising edge takes in the bit the slave drives. -/
theorem bitTick_wireLow (hj : j < 8) (s : State) (m : Byte) (after : Byte → State → State) :
    (s.wireLow m j).bitTick m after = s.wireHigh m j := by
  have hshift : ((s.wireLow m j).riseSck m).shift = wireWindow m (s.answer m) (j + 1) := by
    rw [← wireWindow_succ hj, ← bitCount_of_lt hj]
    rfl
  rw [bitTick_rise rfl rfl, State.wireHigh, ← hshift]
  rfl

/-- A falling edge that is not the last puts the next bit on `MOSI`. -/
theorem bitTick_wireHigh (hj : j < 7) (s : State) (m : Byte) (after : Byte → State → State) :
    (s.wireHigh m j).bitTick m after = s.wireLow m (j + 1) := by
  have hbits : BitVec.ofNat 3 (7 - j) ≠ 0 := by interval_cases j <;> decide
  have hmosi : (s.wireHigh m j).fallSck.mosi = m.getLsbD (7 - (j + 1)) :=
    wireWindow_high (by omega)
  have hcount : (s.wireHigh m j).fallSck.bitCount = BitVec.ofNat 3 (7 - (j + 1)) := by
    change BitVec.ofNat 3 (7 - j) - 1 = _
    interval_cases j <;> rfl
  rw [bitTick_fall rfl rfl hbits, State.wireLow, ← hmosi, ← hcount]
  rfl

/-- The eighth falling edge: the window shows the byte received, and `MOSI` keeps bit 0 of the byte sent. -/
theorem bitTick_wireHigh_seven (s : State) (m : Byte) (after : Byte → State → State) :
    (s.wireHigh m 7).bitTick m after =
      after (s.answer m) (s.exchangeOver m (s.answer m) (m.getLsbD 0) 0 0) := by
  have hshift : (s.wireHigh m 7).shift = s.answer m := wireWindow_eight m (s.answer m)
  rw [bitTick_last rfl rfl rfl, hshift, State.lastFallSck, hshift]
  rfl

section runs

variable (h : Exchanging s op m after) (hg : s.grain = .bit)
include h hg

theorem step_midExchange (k : Nat) (sck mosi : Bool) (shift : Byte) (bitCount : BitVec 3) :
    step ((s.elapse k).midExchange sck mosi shift bitCount) =
      .next (((s.elapse (k + 1)).midExchange sck mosi shift bitCount).bitTick m after) := by
  rw [(h.midExchange k sck mosi shift bitCount).step]
  exact congrArg _ (exchangeTick_bit (s := (s.elapse (k + 1)).midExchange sck mosi shift bitCount) hg)

theorem step_wireLow (k : Nat) (hj : j < 8) :
    step ((s.elapse k).wireLow m j) = .next ((s.elapse (k + 1)).wireHigh m j) :=
  (step_midExchange h hg k ..).trans (congrArg _ (bitTick_wireLow hj (s.elapse (k + 1)) m after))

theorem step_wireHigh (k : Nat) (hj : j < 7) :
    step ((s.elapse k).wireHigh m j) = .next ((s.elapse (k + 1)).wireLow m (j + 1)) :=
  (step_midExchange h hg k ..).trans (congrArg _ (bitTick_wireHigh hj (s.elapse (k + 1)) m after))

theorem step_wireHigh_seven (k : Nat) :
    step ((s.elapse k).wireHigh m 7) =
      .next (after (s.answer m) ((s.elapse (k + 1)).exchangeOver m (s.answer m) (m.getLsbD 0) 0 0)) :=
  (step_midExchange h hg k ..).trans (congrArg _ (bitTick_wireHigh_seven (s.elapse (k + 1)) m after))

variable (hsh : s.shifting = false) (hsck : s.sck = false)
include hsh hsck

theorem run_wireLow (hj : j < 8) : run (1 + 2 * j) s = .next ((s.elapse (1 + 2 * j)).wireLow m j) := by
  induction j with
  | zero =>
    have hload : (s.elapse 1).exchangeTick m after = (s.elapse 1).wireLow m 0 := by
      rw [exchangeTick_bit (s := s.elapse 1) hg, bitTick_load (s := s.elapse 1) hsh,
        loadShift_eq_wireLow (s := s.elapse 1) hsck]
    exact run_succ_of_step (h.step.trans (congrArg _ hload))
  | succ j ih =>
    rw [show 1 + 2 * (j + 1) = 1 + 2 * j + 2 by omega, run_add (ih (by omega)),
      run_succ_of_step (step_wireLow h hg _ (by omega)), run_succ_of_step (step_wireHigh h hg _ (by omega))]
    rfl

theorem run_wireHigh (hj : j < 8) : run (2 + 2 * j) s = .next ((s.elapse (2 + 2 * j)).wireHigh m j) := by
  rw [show 2 + 2 * j = 1 + 2 * j + 1 by omega, run_add (run_wireLow h hg hsh hsck hj),
    run_succ_of_step (step_wireLow h hg _ hj)]
  rfl

/-- A whole exchange at the bit level: 17 steps, and the byte received is the slave's. -/
theorem run_exchange_bit :
    run 17 s = .next (after (s.answer m) ((s.elapse 17).exchangeOver m (s.answer m) (m.getLsbD 0) 0 0)) := by
  rw [show 17 = 2 + 2 * 7 + 1 by rfl, run_add (run_wireHigh h hg hsh hsck (by decide)),
    run_succ_of_step (step_wireHigh_seven h hg _)]
  rfl

/-- After each rising edge `SCK` falls. -/
theorem run_falling_edge (hj : j < 8) : ∃ u, run (3 + 2 * j) s = .next u ∧ u.sck = false := by
  by_cases hlast : j < 7
  · rw [show 3 + 2 * j = 1 + 2 * (j + 1) by omega]
    exact ⟨_, run_wireLow h hg hsh hsck (by omega), rfl⟩
  · obtain rfl : j = 7 := by omega
    obtain ⟨-, -, -, hlow⟩ := h.after_keeps (s.answer m) ((s.elapse 17).exchangeOver m (s.answer m) (m.getLsbD 0) 0 0)
    exact ⟨_, run_exchange_bit h hg hsh hsck, hlow⟩

end runs

/-- Settles O52: the states of the exchange at its rising edges, after its falling edges, and at its end. -/
theorem bitsGoMostSignificantFirst : Obligations.BitsGoMostSignificantFirst := by
  intro s op m hinv hb hg hsh hs hop hm
  have hsck : s.sck = false := by
    obtain ⟨-, -, hsck, -⟩ := (machineInv_iff_of_busy hb).mp hinv
    exact sck_of_not_shifting hsck hsh
  obtain ⟨after, h⟩ : ∃ after, Exchanging s op m after := by
    obtain ⟨hp, hcmd⟩ | ⟨hp, hdata⟩ := hm
    · exact ⟨_, hs, hb, hop, .inl ⟨hp, hcmd, rfl⟩⟩
    · exact ⟨_, hs, hb, hop, .inr ⟨hp, by simp [nextDataByte, hdata], rfl⟩⟩
  obtain ⟨htrace, hslave, hmosi, -⟩ :=
    h.after_keeps (s.answer m) ((s.elapse 17).exchangeOver m (s.answer m) (m.getLsbD 0) 0 0)
  refine ⟨fun j hj => ?_, s.answer m, _, slaveGives_cons rfl rfl (slaveGives_nil (s.exchanged m (s.answer m))),
    run_exchange_bit h hg hsh hsck, htrace, hmosi, hslave⟩
  obtain ⟨u, hu, hlow⟩ := run_falling_edge h hg hsh hsck hj
  exact ⟨_, u, run_wireHigh h hg hsh hsck hj, rfl, rfl, rfl, hu, hlow⟩

end Sys2Proof.Machine
end

section
/-! The byte and the bit level agree with the operation level (20_memory.md R53, R70): the frame is followed exchange by
exchange, each state of it being the state the operation performed whole goes through, as it looks in flight. -/

namespace Sys2Proof.Machine

variable {s p : State} {op : BusOp} {w : CmdWord} {i : Instr}

/-- `p` as it looks with the word `w` in flight, `k` cycles later, and nothing more presented by the host. -/
def State.inFlightWith (p : State) (w : CmdWord) (idx : Nat) (ph : Phase) (s0 : Byte) (din : List Byte) (k : Nat) :
    State :=
  { p with
    busy := true, done := false, cur := w, idx := BitVec.ofNat 6 idx, ph := ph, s0 := s0, din := din, host := []
    clock := p.clock + k }

/-- A block between two exchanges, as the operation level sees it: not busy, the bus clock low, the latches dead. -/
structure BetweenExchanges (p : State) : Prop where
  busy : p.busy = false
  sck : p.sck = false
  latches : LatchesIdle p

theorem BetweenExchanges.exchanged (h : BetweenExchanges p) (m b : Byte) : BetweenExchanges (p.exchanged m b) :=
  ⟨h.busy, rfl, h.latches⟩

theorem BetweenExchanges.xferAll (h : BetweenExchanges p) (out : List Byte) : BetweenExchanges (p.xferAll out).2 := by
  induction out generalizing p with
  | nil => exact h
  | cons m rest ih => exact ih (h.exchanged m _)

theorem elapse_inFlightWith (p : State) (w : CmdWord) (idx : Nat) (ph : Phase) (s0 : Byte) (din : List Byte)
    (k n : Nat) : (p.inFlightWith w idx ph s0 din k).elapse n = p.inFlightWith w idx ph s0 din (k + n) := by
  simp only [State.elapse, State.inFlightWith, Nat.add_assoc]

theorem inFlight_inFlightWith (hw : decode w = .ok i) (hop : busOpOf i p.pb = some op) (idx : Nat) (ph : Phase)
    (s0 : Byte) (din : List Byte) (k : Nat) : (p.inFlightWith w idx ph s0 din k).inFlight = some op := by
  have hcur : (p.inFlightWith w idx ph s0 din k).cur = w := rfl
  simp only [State.inFlight, hcur, hw]
  exact hop

/-- What an operation commits does not depend on the sequencer and does not touch it. -/
theorem commit_inFlightWith {pb : Payload} (hop : busOpOf i pb = some op) (b : Byte) (l : List Byte) (p : State)
    (w : CmdWord) (idx : Nat) (ph : Phase) (s0 : Byte) (din : List Byte) (k : Nat) :
    op.commit b l (p.inFlightWith w idx ph s0 din k) = (op.commit b l p).inFlightWith w idx ph s0 din k := by
  cases i <;> simp only [busOpOf, Option.some.injEq, reduceCtorEq] at hop <;> subst hop <;>
    simp only [statOp, rregOp, wregOp, wregmOp, rpayOp, wpayOp, flrxOp, fltxOp, State.inFlightWith]

/-- As the frame ends, only the state of the operation level is left, with the cycles counted. -/
theorem complete_idleLatches_inFlightWith (hb : p.busy = false) (hl : LatchesIdle p) (w : CmdWord) (idx : Nat)
    (ph : Phase) (s0 : Byte) (din : List Byte) (k : Nat) :
    { (p.inFlightWith w idx ph s0 din k).idleLatches with busy := false }.complete =
      { p.complete with host := [], clock := p.clock + k } := by
  obtain ⟨hcur, hidx, hph, hs0, hdin, hshift, hcount, hsh⟩ := hl
  simp only [State.inFlightWith, State.idleLatches, State.complete, hb, hcur, hidx, hph, hs0, hdin, hshift, hcount,
    hsh]

/-- A whole exchange at any level, from a state between two exchanges. -/
theorem run_exchange {m : Byte} {after : Byte → State → State} (h : Exchanging s op m after) (hsck : s.sck = false)
    (hshift : s.shift = 0) (hcount : s.bitCount = 0) (hsh : s.shifting = false) :
    run (exchangeSteps s.grain) s =
      .next (after (s.answer m) ((s.elapse (exchangeSteps s.grain)).exchanged m (s.answer m))) := by
  by_cases hg : s.grain = .bit
  · rw [hg, exchangeSteps, run_exchange_bit h hg hsh hsck]
    have hover : (s.elapse 17).exchangeOver m (s.answer m) (m.getLsbD 0) 0 0 =
        (s.elapse 17).exchanged m (s.answer m) := by
      rw [State.exchangeOver, ← hshift, ← hcount, ← hsh]
      rfl
    rw [hover]
  · rw [exchangeSteps_of_ne_bit hg, run_succ_of_step h.step, exchangeTick_whole (s := s.elapse 1) hg]
    rfl

theorem getElem?_of_drop_eq_cons {l rest : List Byte} {m : Byte} {idx : Nat} (h : l.drop idx = m :: rest) :
    l[idx]? = some m := by
  rw [← List.head?_drop, h]
  rfl

theorem length_of_drop_eq_cons {l rest : List Byte} {m : Byte} {idx : Nat} (h : l.drop idx = m :: rest) :
    l.length = idx + (rest.length + 1) := by
  have hdrop := congrArg List.length h
  simp only [List.length_drop, List.length_cons] at hdrop
  omega

section frame

variable (hw : decode w = .ok i) (hop : busOpOf i p.pb = some op) (hp : BetweenExchanges p)
include hw hop hp

/-- The command exchange. -/
theorem run_command (k : Nat) :
    run (exchangeSteps p.grain) (p.inFlightWith w 0 .command 0 [] k) =
      .next ((p.xfer op.cmd).2.inFlightWith w 0 (if op.out.length = 0 then .deselect else .data) (p.xfer op.cmd).1 []
        (k + exchangeSteps p.grain)) := by
  obtain ⟨-, -, -, -, -, hshift, hcount, hsh⟩ := hp.latches
  have h : Exchanging (p.inFlightWith w 0 .command 0 [] k) op op.cmd (afterCommand op) :=
    ⟨rfl, rfl, inFlight_inFlightWith hw hop .., .inl ⟨rfl, rfl, rfl⟩⟩
  have hrun := run_exchange h hp.sck hshift hcount hsh
  rw [elapse_inFlightWith] at hrun
  exact hrun

/-- One data exchange, of the byte numbered `idx`. -/
theorem run_dataExchange {m : Byte} {idx : Nat} (hlen : op.out.length ≤ 32) (hm : op.out[idx]? = some m) (s0 : Byte)
    (din : List Byte) (k : Nat) :
    run (exchangeSteps p.grain) (p.inFlightWith w idx .data s0 din k) =
      .next ((p.xfer m).2.inFlightWith w (idx + 1) (if idx + 1 < op.out.length then .data else .deselect) s0
        (din ++ [(p.xfer m).1]) (k + exchangeSteps p.grain)) := by
  obtain ⟨hidx, -⟩ := List.getElem?_eq_some_iff.mp hm
  have htoNat : (BitVec.ofNat 6 idx).toNat = idx := by
    rw [BitVec.toNat_ofNat]
    omega
  obtain ⟨-, -, -, -, -, hshift, hcount, hsh⟩ := hp.latches
  have hnext : m = nextDataByte op (p.inFlightWith w idx .data s0 din k) := by
    have hsame : nextDataByte op (p.inFlightWith w idx .data s0 din k) = op.out.getD idx 0 :=
      congrArg (op.out.getD · 0) htoNat
    rw [hsame, List.getD_eq_getElem?_getD, hm]
    rfl
  have h : Exchanging (p.inFlightWith w idx .data s0 din k) op m (afterData op) :=
    ⟨rfl, rfl, inFlight_inFlightWith hw hop .., .inr ⟨rfl, hnext, rfl⟩⟩
  have hrun := run_exchange h hp.sck hshift hcount hsh
  rw [elapse_inFlightWith] at hrun
  refine hrun.trans (congrArg _ ?_)
  have hcountUp : BitVec.ofNat 6 idx + 1 = BitVec.ofNat 6 (idx + 1) := (BitVec.ofNat_add idx 1).symm
  simp only [afterData, State.inFlightWith, State.exchanged, State.xfer, hcountUp, htoNat]
  rfl

/-- The data exchanges from the byte numbered `idx` on. -/
theorem run_data {m : Byte} {rest : List Byte} {idx : Nat} (hlen : op.out.length ≤ 32)
    (hout : op.out.drop idx = m :: rest) (s0 : Byte) (din : List Byte) (k : Nat) :
    run (exchangeSteps p.grain * (rest.length + 1)) (p.inFlightWith w idx .data s0 din k) =
      .next ((p.xferAll (m :: rest)).2.inFlightWith w op.out.length .deselect s0 (din ++ (p.xferAll (m :: rest)).1)
        (k + exchangeSteps p.grain * (rest.length + 1))) := by
  induction rest generalizing p m idx din k with
  | nil =>
    have hone := run_dataExchange hw hop hp hlen (getElem?_of_drop_eq_cons hout) s0 din k
    have hlength := length_of_drop_eq_cons hout
    rw [if_neg (by simp [hlength])] at hone
    simpa [State.xferAll, hlength] using hone
  | cons m' rest ih =>
    have hone := run_dataExchange hw hop hp hlen (getElem?_of_drop_eq_cons hout) s0 din k
    have hlength := length_of_drop_eq_cons hout
    rw [if_pos (by simp [hlength])] at hone
    have hdrop : op.out.drop (idx + 1) = m' :: rest := by
      rw [← List.drop_drop, hout]
      rfl
    have hrest := ih (p := (p.xfer m).2) hop (hp.exchanged m _) hdrop (din ++ [(p.xfer m).1])
      (k + exchangeSteps p.grain)
    rw [List.append_assoc, List.singleton_append] at hrest
    rw [List.length_cons, Nat.mul_succ, Nat.add_comm (exchangeSteps p.grain * _), run_add hone, ← Nat.add_assoc]
    exact hrest

/-- The last act: what the operation level commits, with the latches dead again. -/
theorem run_deselect (idx : Nat) (s0 : Byte) (din : List Byte) (k : Nat) :
    run 1 (p.inFlightWith w idx .deselect s0 din k) =
      .next { (op.commit s0 din p.csnHigh).complete with host := [], clock := p.clock + (k + 1) } := by
  have hstep := step_of_silent_frame (s := p.inFlightWith w idx .deselect s0 din k) rfl rfl
    (inFlight_inFlightWith hw hop ..)
  rw [elapse_inFlightWith, tickOp_deselect rfl] at hstep
  refine (run_succ_of_step hstep).trans (congrArg _ ?_)
  have hcommits := busOpOf_commits hop
  have hblock := hcommits.block s0 din p.csnHigh
  have hbusy : (op.commit s0 din p.csnHigh).busy = false := (congrArg (·.busy) hblock).trans hp.busy
  have hlatches : LatchesIdle (op.commit s0 din p.csnHigh) := by
    unfold LatchesIdle
    rw [hblock]
    exact hp.latches
  have hclock : (op.commit s0 din p.csnHigh).clock = p.clock := hcommits.clock ..
  rw [← hclock, ← complete_idleLatches_inFlightWith hbusy hlatches w idx .deselect s0 din (k + 1),
    ← commit_inFlightWith hop]
  rfl

end frame

/-- The accepting step: the frame is in flight, with the command exchange next. -/
theorem start_beginCycle {c : HostCycle} (hl : LatchesIdle s) (hh : s.host = [c]) (w : CmdWord) :
    s.beginCycle.start w = s.csnLow.inFlightWith w 0 .command 0 [] 1 := by
  obtain ⟨-, -, -, -, -, hshift, hcount, hsh⟩ := hl
  simp only [State.beginCycle, State.start, State.idleLatches, State.selectTick, State.csnLow, State.inFlightWith, hh,
    hshift, hcount, hsh]
  rfl

/-- All the exchanges of a frame, from the command exchange to the last data exchange. -/
theorem run_exchanges (hw : decode w = .ok i) (hop : busOpOf i p.pb = some op) (hp : BetweenExchanges p) (k : Nat) :
    run (exchangeSteps p.grain * (1 + op.out.length)) (p.inFlightWith w 0 .command 0 [] k) =
      .next (((p.xfer op.cmd).2.xferAll op.out).2.inFlightWith w op.out.length .deselect (p.xfer op.cmd).1
        ((p.xfer op.cmd).2.xferAll op.out).1 (k + exchangeSteps p.grain * (1 + op.out.length))) := by
  have hcommand := run_command hw hop hp k
  have hlen := busOp_length_le hw hop
  rw [Nat.mul_add, Nat.mul_one, run_add hcommand, ← Nat.add_assoc]
  cases hout : op.out with
  | nil => rfl
  | cons m rest =>
    have hdata := run_data (p := (p.xfer op.cmd).2) (idx := 0) hw hop (hp.exchanged _ _) hlen hout (p.xfer op.cmd).1 []
      (k + exchangeSteps p.grain)
    rw [hout] at hdata
    exact hdata

section agreement

variable {c : HostCycle} (hinv : MachineInv s) (hr : Ready s) (hg : s.grain ≠ .operation) (hh : s.host = [c])
  (hc : c.commandAlone) (hw : decode c.cmd = .ok i) (hop : busOpOf i s.pb = some op)
include hinv hr hg hh hc hw hop

/-- Below the operation level a bus operation takes the accepting step, the steps of its exchanges and the last act, and
ends in the state of the operation level. -/
theorem run_busOp :
    run (2 + exchangeSteps s.grain * (1 + op.out.length)) s =
      .next { s.performBus op with
        host := [], clock := s.clock + (2 + exchangeSteps s.grain * (1 + op.out.length)) } := by
  obtain ⟨-, hsck, hlatches, -⟩ := (machineInv_iff_of_idle hr.2).mp hinv
  have hnow : s.hostNow = c := by rw [State.hostNow, hh]; rfl
  have haccept : step s = .next (s.csnLow.inFlightWith c.cmd 0 .command 0 [] 1) := by
    rw [step_of_command_of_ready (hnow ▸ hc) hr, hnow,
      acceptWord_of_busOp (s := s.beginCycle) hg hw (by rw [State.beginCycle_pb, hop]; rfl),
      start_beginCycle hlatches hh]
  have hp : BetweenExchanges s.csnLow := ⟨hr.2, hsck, hlatches⟩
  have hexchanges := run_exchanges (p := s.csnLow) hw hop hp 1
  have hpb : ((s.csnLow.xfer op.cmd).2.xferAll op.out).2.pb = s.pb := xferAll_keeps _ (·.pb) (fun _ _ _ => rfl) _
  have hclock : ((s.csnLow.xfer op.cmd).2.xferAll op.out).2.clock = s.clock := xferAll_clock ..
  have hlast := run_deselect hw (hpb ▸ hop) ((hp.exchanged op.cmd _).xferAll op.out) op.out.length
    (s.csnLow.xfer op.cmd).1 ((s.csnLow.xfer op.cmd).2.xferAll op.out).1
    (1 + exchangeSteps s.grain * (1 + op.out.length))
  have hcycles : ((s.csnLow.xfer op.cmd).2.xferAll op.out).2.clock +
      (1 + exchangeSteps s.grain * (1 + op.out.length) + 1) =
      s.clock + (exchangeSteps s.grain * (1 + op.out.length) + 1 + 1) := by
    rw [hclock]
    omega
  rw [State.csnLow_grain] at hexchanges
  rw [show 2 + exchangeSteps s.grain * (1 + op.out.length) = exchangeSteps s.grain * (1 + op.out.length) + 1 + 1 by
    omega, run_succ_of_step haccept, run_add hexchanges, ← hcycles]
  exact hlast

/-- The same against the state the operation answers where it is performed whole. -/
theorem run_busOp_of_exec {u : State} (hu : exec i s = .next u) :
    run (2 + exchangeSteps s.grain * (1 + op.out.length)) s =
      .next { u with host := [], clock := s.clock + (2 + exchangeSteps s.grain * (1 + op.out.length)) } := by
  obtain rfl : s.performBus op = u := by
    simpa [exec_of_ready hr.1 hr.2, perform_of_busOp (decode_wellFormed hw) hop] using hu
  exact run_busOp hinv hr hg hh hc hw hop

end agreement

/-- Settles O51: an exchange takes 17 steps at the bit level. -/
theorem bitLevelAgreesWithOperationLevel : Obligations.BitLevelAgreesWithOperationLevel := by
  intro s c i op u hinv hr hg hh hc hw hop hu
  have hrun := run_busOp_of_exec hinv hr (by simp [hg]) hh hc hw hop hu
  rw [hg] at hrun
  exact hrun

/-! ### `BUSY` until the last step -/

/-- A run can be stopped on its way. -/
theorem run_split {j k : Nat} {u : State} (h : run (j + k) s = .next u) :
    ∃ t, run j s = .next t ∧ run k t = .next u := by
  induction j generalizing s with
  | zero => exact ⟨s, rfl, by rwa [Nat.zero_add] at h⟩
  | succ j ih =>
    rw [Nat.add_right_comm, run_succ] at h
    split at h
    next t ht =>
      obtain ⟨v, hv, hrest⟩ := ih h
      exact ⟨v, (run_succ_of_step ht).trans hv, hrest⟩
    · cases h
    · cases h

/-- A run uses up one cycle of the host's inputs for each step. -/
theorem host_of_run {k : Nat} {t : State} (h : run k s = .next t) : t.host = s.host.drop k := by
  induction k generalizing s with
  | zero =>
    obtain rfl : s = t := by simpa using h
    rfl
  | succ k ih =>
    rw [run_succ] at h
    split at h
    next u hu =>
      obtain ⟨hhost, -⟩ := step_host_trace hu
      rw [ih h, hhost, List.drop_tail]
    · cases h
    · cases h

theorem step_of_silent_idle (hs : HostSilent s) (hb : s.busy = false) : step s = .next s.beginCycle := by
  rw [step_of_idle (by rw [hostNow_of_silent hs]; rfl) hb, hostNow_of_silent hs, hostAction_of_silent rfl]

/-- In an idle block with a silent host cycles go by and nothing else happens, so `done` is 0 after them. -/
theorem done_of_run_of_silent_idle {k : Nat} {t u : State} (hs : HostSilent t) (hb : t.busy = false)
    (h : run (k + 1) t = .next u) : u.done = false := by
  induction k generalizing t with
  | zero =>
    obtain rfl : t.beginCycle = u := by simpa [run_succ_of_step (step_of_silent_idle hs hb)] using h
    rfl
  | succ k ih =>
    rw [run_succ_of_step (step_of_silent_idle hs hb)] at h
    exact ih (t := t.beginCycle) (by rw [HostSilent, State.beginCycle_host, hs]; rfl) hb h

/-- Before the last step of a run that ends with `done` = 1 the block is busy, once the host is silent. -/
theorem busy_before_done {j k : Nat} {u : State} (h : run (j + (k + 1)) s = .next u) (hdone : u.done = true)
    (hs : s.host.drop j = []) : ∃ t, run j s = .next t ∧ t.busy = true := by
  obtain ⟨t, ht, hrest⟩ := run_split h
  refine ⟨t, ht, ?_⟩
  by_contra hb
  have hnot := done_of_run_of_silent_idle ((host_of_run ht).trans hs) (by simpa using hb) hrest
  simp [hdone] at hnot

/-- Settles O50: an exchange takes one step at the byte level, and the state after the last step is the first one with
`done` = 1. -/
theorem byteLevelAgreesWithOperationLevel : Obligations.ByteLevelAgreesWithOperationLevel := by
  intro s c i op u hinv hr hg hh hc hw hop hu
  have hrun := run_busOp_of_exec hinv hr (by simp [hg]) hh hc hw hop hu
  have hcount : 2 + exchangeSteps s.grain * (1 + op.out.length) = 3 + op.out.length := by
    rw [hg, exchangeSteps]
    omega
  rw [hcount] at hrun
  obtain ⟨-, hdone, -⟩ := onlyAFailedRegisterWriteClearsOk i s u hr (decode_wellFormed hw) hu
  refine ⟨fun k hk => ?_, hrun⟩
  obtain ⟨d, hd⟩ : ∃ d, 3 + op.out.length = k + 1 + (d + 1) := ⟨1 + op.out.length - k, by omega⟩
  have hrun' : run (k + 1 + (d + 1)) s =
      .next { u with host := [], clock := s.clock + (3 + op.out.length) } := hd ▸ hrun
  exact busy_before_done hrun' hdone (by simp [hh])

end Sys2Proof.Machine
end
